-- ==== Sys2Proof/Word.lean ====
section
/-!
DEFINITION. The words of the block: 32-bit command and response words, 16-bit registers, and the bytes of a
byte-wide transport (00_scope.md R8, 10_state.md R25, 20_memory.md R66); the stereo pair of R9.
-/

namespace Sys2Proof

/-- A command or response word, bit 31 the most significant (00_scope.md R8). -/
abbrev Word := BitVec 32

/-- A register of the staged bank, a status register, an immediate (10_state.md R21, R30). -/
abbrev Half := BitVec 16

/-- One byte of a transport narrower than a word (20_memory.md R66). -/
abbrev Byte := BitVec 8

/-- A stereo channel: 0 is left, 1 is right (00_scope.md R9). -/
inductive Chan where
  | left
  | right
deriving DecidableEq, Repr

/-- One value for each channel, the left one first (00_scope.md R9). -/
structure Stereo (α : Type) where
  left : α
  right : α
deriving DecidableEq, Repr

/-- The value of one channel. -/
def Stereo.get {α : Type} (p : Stereo α) : Chan → α
  | .left => p.left
  | .right => p.right

/-- The pair whose channel `c` holds `f c`: an operation applied to each channel separately (00_scope.md R9). -/
def Stereo.each {α : Type} (f : Chan → α) : Stereo α := ⟨f .left, f .right⟩

/-- One sample for each channel (00_scope.md R9). -/
abbrev Frame := Stereo Rat

/-- The voice ids 0, 1, 2 (00_scope.md R4, R9). -/
inductive VoiceId where
  | v0
  | v1
  | v2
deriving DecidableEq, Repr

/-- One value for each voice id. -/
structure Triple (α : Type) where
  v0 : α
  v1 : α
  v2 : α
deriving DecidableEq, Repr

/-- The value of one voice. -/
def Triple.get {α : Type} (p : Triple α) : VoiceId → α
  | .v0 => p.v0
  | .v1 => p.v1
  | .v2 => p.v2

/-- The triple with the value of voice `v` replaced by `x`. -/
def Triple.set {α : Type} (p : Triple α) (v : VoiceId) (x : α) : Triple α :=
  match v with
  | .v0 => { p with v0 := x }
  | .v1 => { p with v1 := x }
  | .v2 => { p with v2 := x }

/-- The triple whose voice `v` holds `f v`. No voice's value depends on another's (20_memory.md R74). -/
def Triple.each {α : Type} (f : VoiceId → α) : Triple α := ⟨f .v0, f .v1, f .v2⟩

end Sys2Proof
end

