-- ==== Sys2Proof/Syntax.lean ====
section
/-!
DEFINITION. The command set: one constructor of `Instr` per row of the opcode table (30_encoding.md R84), the
registers it names (10_state.md R22, R30 to R34), and the closed sets of the enumeration registers (10_state.md R23).
-/

namespace Sys2Proof

/-- Waveforms of a voice's source generator (10_state.md R23). -/
inductive Waveform where
  | sine
  | triangle
  | sawtooth
  | square
  | noise
deriving DecidableEq, Repr

/-- The category of a source generator (10_state.md R23). -/
inductive Category where
  | tonal
  | noise
deriving DecidableEq, Repr

/-- Waveforms of the low-frequency oscillator (10_state.md R23). -/
inductive LfoWave where
  | sine
  | triangle
  | sawtooth
  | square
deriving DecidableEq, Repr

/-- Destinations an LFO can be sent to (10_state.md R23). -/
inductive LfoTarget where
  | pitch
  | cutoff
  | amp
  | pan
deriving DecidableEq, Repr

/-- Filter types (10_state.md R23). -/
inductive FilterType where
  | lowpass
  | highpass
  | bandpass
  | notch
  | peaking
deriving DecidableEq, Repr

/-- The fourteen registers of a voice group, in index order (10_state.md R22). -/
inductive VoiceReg where
  | waveform
  | enabled
  | detune
  | gain
  | octave
  | pan
  | envA
  | envD
  | envS
  | envR
  | lfoWave
  | lfoRate
  | lfoDepth
  | lfoTarget
deriving DecidableEq, Repr

/-- The ten registers of the effect groups 8 to 11, in group and index order (10_state.md R22). -/
inductive EffectReg where
  | cutoff
  | resonance
  | ftype
  | dtime
  | feedback
  | dmix
  | decay
  | rmix
  | mgain
  | drive
deriving DecidableEq, Repr

/-- The 52 registers of the staged Patch bank `P` (10_state.md R21, R22). -/
inductive PatchReg where
  | voice (v : VoiceId) (r : VoiceReg)
  | effect (r : EffectReg)
deriving DecidableEq, Repr

/-- The ten status registers (10_state.md R30 to R34, 30_encoding.md R88). -/
inductive StatusReg where
  | status
  | envstate
  | tick0
  | tick1
  | tick2
  | tick3
  | route
  | epoch0
  | epoch1
  | epoch2
deriving DecidableEq, Repr

/-- The eleven commands (30_encoding.md R84). -/
inductive Instr where
  /-- `NOP` (40_commands.md R113). -/
  | nop
  /-- `WRP g.name, imm` (40_commands.md R104). -/
  | wrp (r : PatchReg) (imm : Half)
  /-- `RDP g.name` (40_commands.md R105). -/
  | rdp (r : PatchReg)
  /-- `RDS name` (40_commands.md R106). -/
  | rds (r : StatusReg)
  /-- `APPLY` (41_voice_manager.md R120). -/
  | apply
  /-- `ATTACK v` (43_envelope.md R155). -/
  | attack (v : VoiceId)
  /-- `RELEASE v` (43_envelope.md R159). -/
  | release (v : VoiceId)
  /-- `START` (40_commands.md R107). -/
  | start
  /-- `STOP` (40_commands.md R108). -/
  | stop
  /-- `CAPSTART` (46_capture_sink.md R222). -/
  | capstart
  /-- `CAPSTOP` (46_capture_sink.md R223). -/
  | capstop
deriving DecidableEq, Repr

end Sys2Proof
end

