-- ==== Sys2Proof/WellFormed.lean ====
section
/-!
DEFINITION. Which instructions are legal. Registers, voices and status registers are legal by their types; what is
left to check is the immediate of a `WRP` to an enumeration register or to `ENABLED` (30_encoding.md R90).
-/

namespace Sys2Proof

/-- The largest legal raw value of a register, where the column "legal raw values" of 10_state.md R22 gives one;
`none` where it says "any" (30_encoding.md R93). -/
def PatchReg.maxLegal : PatchReg → Option Nat
  | .voice _ .waveform => some 4
  | .voice _ .enabled => some 1
  | .voice _ .lfoWave => some 3
  | .voice _ .lfoTarget => some 3
  | .effect .ftype => some 4
  | _ => none

/-- Whether `WRP` may store `imm` in the register (40_commands.md R104). -/
def immLegal (r : PatchReg) (imm : Half) : Bool :=
  match r.maxLegal with
  | some m => decide (imm.toNat ≤ m)
  | none => true

/-- The legal instructions (30_encoding.md R84, column "extra condition"). -/
def Instr.wellFormed : Instr → Bool
  | .wrp r imm => immLegal r imm
  | .nop => true
  | .rdp _ => true
  | .rds _ => true
  | .apply => true
  | .attack _ => true
  | .release _ => true
  | .start => true
  | .stop => true
  | .capstart => true
  | .capstop => true

end Sys2Proof
end

