-- ==== Sys2Proof/Decode.lean ====
section
/-!
DEFINITION. The decoder of command words, total on all 2^32 words and rejecting by name (30_encoding.md R80 to R93),
the encoder written from the same tables, and the byte order of a byte-wide transport (20_memory.md R66).
-/

namespace Sys2Proof

/-- Why a word is not a command. The names stand in the order in which 30_encoding.md R92 checks; all four are
answered alike. -/
inductive IllegalWord where
  /-- `op` is 11 to 15 (30_encoding.md R91). -/
  | reservedOpcode
  /-- A field that carries no operand is not zero (30_encoding.md R89). -/
  | mustBeZero
  /-- The register, status register or voice does not exist (30_encoding.md R90). -/
  | reservedOperand
  /-- `WRP` of a value outside the legal raw values (30_encoding.md R90). -/
  | illegalImmediate
deriving DecidableEq, Repr

/-- `op = w[31:28]` (30_encoding.md R80). -/
def opField (w : Word) : BitVec 4 := w.extractLsb' 28 4

/-- `grp = w[27:24]` (30_encoding.md R80). -/
def grpField (w : Word) : BitVec 4 := w.extractLsb' 24 4

/-- `idx = w[23:16]` (30_encoding.md R80). -/
def idxField (w : Word) : BitVec 8 := w.extractLsb' 16 8

/-- `imm = w[15:0]` (30_encoding.md R80). -/
def immField (w : Word) : Half := w.extractLsb' 0 16

/-- The voice operand, legal values 0, 1, 2 (30_encoding.md R87). -/
def voiceOf? (g : BitVec 4) : Option VoiceId :=
  match g.toNat with
  | 0 => some .v0
  | 1 => some .v1
  | 2 => some .v2
  | _ => none

/-- The register of a voice group at an index (10_state.md R22). -/
def voiceRegOf? (i : BitVec 8) : Option VoiceReg :=
  match i.toNat with
  | 0 => some .waveform
  | 1 => some .enabled
  | 2 => some .detune
  | 3 => some .gain
  | 4 => some .octave
  | 5 => some .pan
  | 6 => some .envA
  | 7 => some .envD
  | 8 => some .envS
  | 9 => some .envR
  | 10 => some .lfoWave
  | 11 => some .lfoRate
  | 12 => some .lfoDepth
  | 13 => some .lfoTarget
  | _ => none

/-- The register of an effect group at an index (10_state.md R22). -/
def effectRegOf? (g : BitVec 4) (i : BitVec 8) : Option EffectReg :=
  match g.toNat, i.toNat with
  | 8, 0 => some .cutoff
  | 8, 1 => some .resonance
  | 8, 2 => some .ftype
  | 9, 0 => some .dtime
  | 9, 1 => some .feedback
  | 9, 2 => some .dmix
  | 10, 0 => some .decay
  | 10, 1 => some .rmix
  | 11, 0 => some .mgain
  | 11, 1 => some .drive
  | _, _ => none

/-- The register `P[g, i]`, where there is one (10_state.md R22, 30_encoding.md R85). -/
def patchRegOf? (g : BitVec 4) (i : BitVec 8) : Option PatchReg :=
  match voiceOf? g with
  | some v => (voiceRegOf? i).map (.voice v)
  | none => (effectRegOf? g i).map .effect

/-- The status operand (30_encoding.md R88). -/
def statusRegOf? (i : BitVec 8) : Option StatusReg :=
  match i.toNat with
  | 0 => some .status
  | 1 => some .envstate
  | 2 => some .tick0
  | 3 => some .tick1
  | 4 => some .tick2
  | 5 => some .tick3
  | 6 => some .route
  | 8 => some .epoch0
  | 9 => some .epoch1
  | 10 => some .epoch2
  | _ => none

/-- Format Z: bits 27:0 are zero (30_encoding.md R81, R89). -/
def decodeZ (i : Instr) (w : Word) : Except IllegalWord Instr :=
  if grpField w = 0 ∧ idxField w = 0 ∧ immField w = 0 then .ok i else .error .mustBeZero

/-- Format V: bits 23:0 are zero, then the voice (30_encoding.md R81, R87, R89). -/
def decodeV (mk : VoiceId → Instr) (w : Word) : Except IllegalWord Instr :=
  if idxField w = 0 ∧ immField w = 0 then
    match voiceOf? (grpField w) with
    | some v => .ok (mk v)
    | none => .error .reservedOperand
  else .error .mustBeZero

/-- `WRP`, format R with an immediate (30_encoding.md R85, R86, R90). -/
def decodeWrp (w : Word) : Except IllegalWord Instr :=
  match patchRegOf? (grpField w) (idxField w) with
  | some r => if immLegal r (immField w) then .ok (.wrp r (immField w)) else .error .illegalImmediate
  | none => .error .reservedOperand

/-- `RDP`, format R with bits 15:0 zero (30_encoding.md R85, R89, R90). -/
def decodeRdp (w : Word) : Except IllegalWord Instr :=
  if immField w = 0 then
    match patchRegOf? (grpField w) (idxField w) with
    | some r => .ok (.rdp r)
    | none => .error .reservedOperand
  else .error .mustBeZero

/-- `RDS`, format S with bits 27:24 and 15:0 zero (30_encoding.md R88, R89, R90). -/
def decodeRds (w : Word) : Except IllegalWord Instr :=
  if grpField w = 0 ∧ immField w = 0 then
    match statusRegOf? (idxField w) with
    | some r => .ok (.rds r)
    | none => .error .reservedOperand
  else .error .mustBeZero

/-- The decoder: the row of 30_encoding.md R84 the word selects, or why there is none (R92). -/
def decode (w : Word) : Except IllegalWord Instr :=
  match (opField w).toNat with
  | 0 => decodeZ .nop w
  | 1 => decodeWrp w
  | 2 => decodeRdp w
  | 3 => decodeRds w
  | 4 => decodeZ .apply w
  | 5 => decodeV .attack w
  | 6 => decodeV .release w
  | 7 => decodeZ .start w
  | 8 => decodeZ .stop w
  | 9 => decodeZ .capstart w
  | 10 => decodeZ .capstop w
  | _ => .error .reservedOpcode

/-! ### The encoder -/

/-- A word from its four fields (30_encoding.md R80). -/
def packWord (op grp : BitVec 4) (idx : BitVec 8) (imm : Half) : Word := op ++ grp ++ idx ++ imm

/-- The voice id as a group number (30_encoding.md R87). -/
def VoiceId.code : VoiceId → BitVec 4
  | .v0 => 0
  | .v1 => 1
  | .v2 => 2

/-- The index of a register in its voice group (10_state.md R22). -/
def VoiceReg.index : VoiceReg → BitVec 8
  | .waveform => 0
  | .enabled => 1
  | .detune => 2
  | .gain => 3
  | .octave => 4
  | .pan => 5
  | .envA => 6
  | .envD => 7
  | .envS => 8
  | .envR => 9
  | .lfoWave => 10
  | .lfoRate => 11
  | .lfoDepth => 12
  | .lfoTarget => 13

/-- The group of an effect register (10_state.md R22). -/
def EffectReg.group : EffectReg → BitVec 4
  | .cutoff | .resonance | .ftype => 8
  | .dtime | .feedback | .dmix => 9
  | .decay | .rmix => 10
  | .mgain | .drive => 11

/-- The index of an effect register in its group (10_state.md R22). -/
def EffectReg.index : EffectReg → BitVec 8
  | .cutoff | .dtime | .decay | .mgain => 0
  | .resonance | .feedback | .rmix | .drive => 1
  | .ftype | .dmix => 2

/-- The group `g` of a register (30_encoding.md R85). -/
def PatchReg.group : PatchReg → BitVec 4
  | .voice v _ => v.code
  | .effect r => r.group

/-- The index `i` of a register (30_encoding.md R85). -/
def PatchReg.index : PatchReg → BitVec 8
  | .voice _ r => r.index
  | .effect r => r.index

/-- The index of a status register (30_encoding.md R88). -/
def StatusReg.index : StatusReg → BitVec 8
  | .status => 0
  | .envstate => 1
  | .tick0 => 2
  | .tick1 => 3
  | .tick2 => 4
  | .tick3 => 5
  | .route => 6
  | .epoch0 => 8
  | .epoch1 => 9
  | .epoch2 => 10

/-- The encoder: the word of an instruction (30_encoding.md R81, R84). -/
def encode : Instr → Word
  | .nop => packWord 0 0 0 0
  | .wrp r imm => packWord 1 r.group r.index imm
  | .rdp r => packWord 2 r.group r.index 0
  | .rds r => packWord 3 0 r.index 0
  | .apply => packWord 4 0 0 0
  | .attack v => packWord 5 v.code 0 0
  | .release v => packWord 6 v.code 0 0
  | .start => packWord 7 0 0 0
  | .stop => packWord 8 0 0 0
  | .capstart => packWord 9 0 0 0
  | .capstop => packWord 10 0 0 0

/-- The mask of the instruction's row (30_encoding.md R84, column "mask"). -/
def rowMask : Instr → Word
  | .nop | .apply | .start | .stop | .capstart | .capstop => 0xFFFFFFFF
  | .wrp _ _ => 0xF0000000
  | .rdp _ => 0xF000FFFF
  | .rds _ => 0xFF00FFFF
  | .attack _ | .release _ => 0xF0FFFFFF

/-- The match value of the instruction's row (30_encoding.md R84, column "match"). -/
def rowMatch : Instr → Word
  | .nop => 0x00000000
  | .wrp _ _ => 0x10000000
  | .rdp _ => 0x20000000
  | .rds _ => 0x30000000
  | .apply => 0x40000000
  | .attack _ => 0x50000000
  | .release _ => 0x60000000
  | .start => 0x70000000
  | .stop => 0x80000000
  | .capstart => 0x90000000
  | .capstop => 0xA0000000

/-! ### Words, register values and frames over a narrower transport -/

/-- The four bytes of a word, the least significant one first (20_memory.md R66). -/
def wordBytes (w : Word) : List Byte :=
  [w.extractLsb' 0 8, w.extractLsb' 8 8, w.extractLsb' 16 8, w.extractLsb' 24 8]

/-- The two bytes of a register value, the least significant one first (20_memory.md R66). -/
def halfBytes (h : Half) : List Byte := [h.extractLsb' 0 8, h.extractLsb' 8 8]

/-- Reads one register value off a byte stream, least significant byte first: the value and the bytes left over
(20_memory.md R66). -/
def readHalf : List Byte → Option (Half × List Byte)
  | b0 :: b1 :: rest => some (b1 ++ b0, rest)
  | _ => none

/-- Reads one word off a byte stream, least significant byte first: the word and the bytes left over
(20_memory.md R66). -/
def readWord : List Byte → Option (Word × List Byte)
  | b0 :: b1 :: b2 :: b3 :: rest => some (b3 ++ b2 ++ b1 ++ b0, rest)
  | _ => none

/-- A stereo frame as a transport of single samples carries it, left sample first (20_memory.md R66). -/
def frameSamples (f : Frame) : List Rat := [f.left, f.right]

/-- Reads one command off a byte stream, least significant byte first: the decoder's answer and the bytes left over.
`none` when fewer than four bytes are there: every command is one 32-bit word (30_encoding.md R80, 20_memory.md R66). -/
def decodeBytes (bs : List Byte) : Option (Except IllegalWord Instr × List Byte) :=
  (readWord bs).map fun p => (decode p.1, p.2)

/-- The instruction the decoder reads from a word numbered as the opcode table numbers it, bit 0 the least
significant; the word is laid out as its transport carries it and given to the decoder. -/
def decodeTableWord (nbits w : Nat) : Option Instr :=
  match decodeBytes (wordBytes (BitVec.ofNat 32 (w % 2 ^ nbits))) with
  | some (.ok i, _) => some i
  | _ => none

end Sys2Proof
end

