-- ==== Sys2Proof/Config.lean ====
section
/-!
DEFINITION. What the spec makes an argument of the model: the constants of 00_scope.md R4, the open parameters of R5
and the configuration functions and oracle of R6, each with exactly the properties the spec demands, and the build's
own instance, of which nothing else is known (log 1).
-/

namespace Sys2Proof

/-! ### Constants the source fixes (00_scope.md R4) -/

/-- `REF_PITCH`, Hz. -/
def refPitch : Rat := 6541 / 100
/-- `CUTOFF_MIN`, Hz. -/
def cutoffMin : Rat := 20
/-- `CUTOFF_MAX`, Hz. -/
def cutoffMax : Rat := 20000
/-- `Q_MAX`; `Q_MIN` is 0. -/
def qMax : Rat := 20
/-- `FB_MAX`; `FB_MIN` is 0. -/
def fbMax : Rat := 19 / 20
/-- `CUTOFF_MOD_HZ`, Hz. -/
def cutoffModHz : Rat := 5000
/-- `AMP_MOD`, linear gain. -/
def ampMod : Rat := 1 / 2
/-- `PAN_MOD`, pan units. -/
def panMod : Rat := 1
/-- `CENTS_PER_OCTAVE`. -/
def centsPerOctave : Rat := 1200

/-- The coefficients of one second-order section (00_scope.md R6, `biquad_coef`). -/
structure Coefs where
  b0 : Rat
  b1 : Rat
  b2 : Rat
  a1 : Rat
  a2 : Rat
deriving DecidableEq, Repr

/-! ### The defaults of the configuration functions (log 16) -/

/-- Default of `exp2_cents`: linear between whole octaves, where it is exact (00_scope.md R6). -/
def defaultExp2Cents (c : Rat) : Rat :=
  (2 : Rat) ^ (c / centsPerOctave).floor * (1 + (c / centsPerOctave - ((c / centsPerOctave).floor : Rat)))

/-- Default of `lfo_shape` (42_modulation_router.md R147); the sine is the parabola through the points named there. -/
def defaultLfoShape (w : LfoWave) (ph : Rat) : Rat :=
  match w with
  | .sine => if ph < 1 / 2 then 16 * ph * (1 / 2 - ph) else -(16 * (ph - 1 / 2) * (1 - ph))
  | .triangle => if ph < 1 / 4 then 4 * ph else if ph < 3 / 4 then 2 - 4 * ph else 4 * ph - 4
  | .sawtooth => if ph < 1 / 2 then 2 * ph else 2 * ph - 2
  | .square => if ph < 1 / 2 then 1 else -1

/-- Default of `pan_law`: linear (41_voice_manager.md R136). -/
def defaultPanLaw (p : Rat) : Frame := ⟨(1 - p) / 2, (1 + p) / 2⟩

/-- Default of `lim_curve` for threshold `T`, knee `K`, ratio `R` (44_effects_bus.md R196). -/
def defaultLimCurve (T K R e : Rat) : Rat :=
  if e ≤ T - K / 2 then 1
  else if e < T + K / 2 then (e + (1 / R - 1) * (e - T + K / 2) ^ 2 / (2 * K)) / e
  else (T + (e - T) / R) / e

/-- The rows of 44_effects_bus.md R182 for `cs = cos(w0)`, `al` and `A`, each divided through by its `a0`. -/
def biquadRow (type : FilterType) (cs al A : Rat) : Coefs :=
  let row (b0 b1 b2 a0 a1 a2 : Rat) : Coefs := ⟨b0 / a0, b1 / a0, b2 / a0, a1 / a0, a2 / a0⟩
  match type with
  | .lowpass => row ((1 - cs) / 2) (1 - cs) ((1 - cs) / 2) (1 + al) (-2 * cs) (1 - al)
  | .highpass => row ((1 + cs) / 2) (-(1 + cs)) ((1 + cs) / 2) (1 + al) (-2 * cs) (1 - al)
  | .bandpass => row al 0 (-al) (1 + al) (-2 * cs) (1 - al)
  | .notch => row 1 (-2 * cs) 1 (1 + al) (-2 * cs) (1 - al)
  | .peaking => row (1 + al * A) (-2 * cs) (1 - al * A) (1 + al / A) (-2 * cs) (1 - al / A)

/-- A rational approximation of the cosine: its first nine series terms. -/
def approxCos (x : Rat) : Rat :=
  ((List.range 9).map fun k => (-1) ^ k * x ^ (2 * k) / ((2 * k).factorial : Rat)).sum

/-- A rational approximation of the sine: its first nine series terms. -/
def approxSin (x : Rat) : Rat :=
  ((List.range 9).map fun k => (-1) ^ k * x ^ (2 * k + 1) / ((2 * k + 1).factorial : Rat)).sum

/-- A rational approximation of `10^(dB/40)`, exact at 0 dB. -/
def approxPeakAmp (dB : Rat) : Rat := (1 + dB * (2302585 / 1000000) / 40 / 1024) ^ 1024

/-- Default of `biquad_coef`: rational approximations of the formulas of 44_effects_bus.md R182. -/
def defaultBiquad (piQ peakGainDb : Rat) (type : FilterType) (fc Q : Rat) (fs : Nat) : Coefs :=
  let w0 := 2 * piQ * fc / fs
  let Qe := max Q (1 / 1000)
  biquadRow type (approxCos w0) (approxSin w0 / (2 * Qe)) (approxPeakAmp peakGainDb)

/-! ### The configuration -/

/-- The open parameters of 00_scope.md R5 and the configuration functions and oracle of R6, with the constraints and
properties those rules state and no others. -/
structure Config where
  /-- `FS`, sample rate in Hz. -/
  fs : Nat
  /-- `ALPHA_SMOOTH`. -/
  alphaSmooth : Rat
  /-- `ALPHA_FAST`. -/
  alphaFast : Rat
  /-- `T_FLOOR_MS`, ms. -/
  tFloorMs : Nat
  /-- `PITCH_MOD_CENTS`, cents. -/
  pitchModCents : Rat
  /-- `PEAK_GAIN_DB`, dB: an argument of the default `biquad_coef` alone (log 17). -/
  peakGainDb : Rat
  /-- `DELAY_MAX_MS`, ms. -/
  delayMaxMs : Nat
  /-- `REV_MIN_MS`, ms. -/
  revMinMs : Nat
  /-- `REV_MAX_MS`, ms. -/
  revMaxMs : Nat
  /-- `WS_N`, entries of the waveshaper's table. -/
  wsN : Nat
  /-- `WS_K_MAX`. -/
  wsKMax : Rat
  /-- `PI_Q`. DESIGN CHOICE: R5 says "near pi" without saying how near, and the model asks only that it is positive, so
  what needs a closer value holds of a `Config` under that premise only: an end value of the curve below 1 needs
  `piQ ≤ 9` (45_curve_generators.md R210), a table slope that grows with `k` needs `3 * h < piQ` at the grid point `h`
  next to 0 (R212). See log 21. -/
  piQ : Rat
  /-- `LIM_T`. -/
  limT : Rat
  /-- `LIM_KNEE`. -/
  limKnee : Rat
  /-- `LIM_RATIO`: an argument of the default `lim_curve` alone (log 17). -/
  limRatio : Rat
  /-- `LIM_A_ATT`. -/
  limAAtt : Rat
  /-- `LIM_A_REL`. -/
  limARel : Rat
  /-- `CAP_CHUNK`, frames. -/
  capChunk : Nat
  /-- `q`, the quantiser (00_scope.md R7). -/
  q : Rat → Rat
  /-- `exp2_cents`. -/
  exp2Cents : Rat → Rat
  /-- `lfo_shape`. -/
  lfoShape : LfoWave → Rat → Rat
  /-- `pan_law`. -/
  panLaw : Rat → Frame
  /-- `biquad_coef(type, fc, Q, FS)`. -/
  biquadCoef : FilterType → Rat → Rat → Nat → Coefs
  /-- `lim_curve`. -/
  limCurve : Rat → Rat
  /-- `urand(syn, c, i)`; the first argument here numbers the session, since a reset starts `syn` afresh (log 2). -/
  urand : Nat → Nat → Chan → Nat → Rat
  fs_pos : 0 < fs
  /-- Where the default `biquad_coef` is used, on the domain 44_effects_bus.md R182 gives it, `FS > 40000`
  (00_scope.md R5, 70_reset_and_hazards.md R262). The default meant is the model's approximation (log 16). -/
  fs_default : (∀ type fc Q, 20 ≤ fc → fc ≤ 20000 → 0 ≤ Q → Q ≤ 20 →
    biquadCoef type fc Q fs = defaultBiquad piQ peakGainDb type fc Q fs) → 40000 < fs
  alphaSmooth_pos : 0 < alphaSmooth
  alphaSmooth_lt : alphaSmooth < alphaFast
  alphaFast_le : alphaFast ≤ 1
  tFloorMs_pos : 0 < tFloorMs
  pitchModCents_pos : 0 < pitchModCents
  delayMaxMs_pos : 0 < delayMaxMs
  revMinMs_pos : 0 < revMinMs
  revMinMs_le : revMinMs ≤ revMaxMs
  wsN_ge : 2 ≤ wsN
  wsKMax_pos : 0 < wsKMax
  piQ_pos : 0 < piQ
  limT_pos : 0 < limT
  limKnee_nonneg : 0 ≤ limKnee
  limKnee_lt : limKnee < 2 * limT
  limRatio_ge : 1 ≤ limRatio
  limAAtt_pos : 0 < limAAtt
  limAAtt_le : limAAtt ≤ 1
  limARel_pos : 0 < limARel
  limARel_le : limARel ≤ 1
  capChunk_pos : 0 < capChunk
  exp2Cents_octave : ∀ j : ℤ, exp2Cents (1200 * j) = 2 ^ j
  exp2Cents_pos : ∀ c, 0 < exp2Cents c
  exp2Cents_mono : ∀ c d, c ≤ d → exp2Cents c ≤ exp2Cents d
  lfoShape_bound : ∀ w ph, 0 ≤ ph → ph < 1 → -1 ≤ lfoShape w ph ∧ lfoShape w ph ≤ 1
  panLaw_neg_one : panLaw (-1) = ⟨1, 0⟩
  panLaw_one : panLaw 1 = ⟨0, 1⟩
  panLaw_range : ∀ p, -1 ≤ p → p ≤ 1 → ∀ c, 0 ≤ (panLaw p).get c ∧ (panLaw p).get c ≤ 1
  limCurve_pos : ∀ e, 0 ≤ e → 0 < limCurve e
  limCurve_le : ∀ e, 0 ≤ e → limCurve e ≤ 1
  limCurve_below : ∀ e, 0 ≤ e → e ≤ limT - limKnee / 2 → limCurve e = 1
  urand_ge : ∀ n s c i, -1 ≤ urand n s c i
  urand_lt : ∀ n s c i, urand n s c i < 1

/-! ### The defaults have the demanded properties -/

theorem defaultExp2Cents_octave (j : ℤ) : defaultExp2Cents (1200 * j) = 2 ^ j := by
  have h : (1200 * (j : Rat)) / centsPerOctave = j := by
    rw [centsPerOctave]; field_simp
  have hf : Rat.floor (j : Rat) = j := Int.floor_intCast (R := ℚ) j
  simp [defaultExp2Cents, h, hf]

theorem defaultExp2Cents_pos (c : Rat) : 0 < defaultExp2Cents c := by
  have h : ((c / centsPerOctave).floor : Rat) ≤ c / centsPerOctave := Int.floor_le (c / centsPerOctave)
  exact mul_pos (zpow_pos (by norm_num) _) (by linarith)

theorem defaultExp2Cents_mono (c d : Rat) (h : c ≤ d) : defaultExp2Cents c ≤ defaultExp2Cents d := by
  have hxy : c / centsPerOctave ≤ d / centsPerOctave := by
    rw [centsPerOctave]; linarith
  unfold defaultExp2Cents
  generalize c / centsPerOctave = x at *
  generalize d / centsPerOctave = y at *
  have hx : (x.floor : Rat) ≤ x := Int.floor_le x
  have hx' : x < x.floor + 1 := Int.lt_floor_add_one x
  have hy : (y.floor : Rat) ≤ y := Int.floor_le y
  have hfl : x.floor ≤ y.floor := Int.floor_le_floor hxy
  rcases hfl.eq_or_lt with he | hlt
  · rw [he]
    exact mul_le_mul_of_nonneg_left (by linarith) (zpow_nonneg (by norm_num) _)
  · have hp : (0 : Rat) < 2 ^ x.floor := zpow_pos (by norm_num) _
    have hs : (2 : Rat) ^ (x.floor + 1) = 2 ^ x.floor * 2 := zpow_add_one₀ (by norm_num) _
    have hm : (2 : Rat) ^ (x.floor + 1) ≤ 2 ^ y.floor := zpow_le_zpow_right₀ (by norm_num) hlt
    calc (2 : Rat) ^ x.floor * (1 + (x - x.floor)) ≤ 2 ^ x.floor * 2 :=
          mul_le_mul_of_nonneg_left (by linarith) hp.le
      _ ≤ 2 ^ y.floor := hs ▸ hm
      _ ≤ 2 ^ y.floor * (1 + (y - y.floor)) :=
          le_mul_of_one_le_right (zpow_nonneg (by norm_num) _) (by linarith)

theorem defaultLfoShape_bound (w : LfoWave) (ph : Rat) (h0 : 0 ≤ ph) (h1 : ph < 1) :
    -1 ≤ defaultLfoShape w ph ∧ defaultLfoShape w ph ≤ 1 := by
  cases w <;> simp only [defaultLfoShape] <;> split_ifs <;> constructor <;>
    nlinarith [sq_nonneg (ph - 1 / 4), sq_nonneg (ph - 3 / 4)]

theorem defaultPanLaw_range (p : Rat) (h0 : -1 ≤ p) (h1 : p ≤ 1) (c : Chan) :
    0 ≤ (defaultPanLaw p).get c ∧ (defaultPanLaw p).get c ≤ 1 := by
  cases c <;> simp only [defaultPanLaw, Stereo.get] <;> constructor <;> linarith

theorem defaultLimCurve_bounds (T K R e : Rat) (hK : 0 ≤ K) (hKT : K < 2 * T) (hR : 1 ≤ R) :
    0 < defaultLimCurve T K R e ∧ defaultLimCurve T K R e ≤ 1 := by
  have hR0 : 0 < 1 / R := by positivity
  have hR1 : 1 / R ≤ 1 := by rw [div_le_one (by linarith)]; exact hR
  unfold defaultLimCurve
  split_ifs with h1 h2
  · constructor <;> norm_num
  · have he' : 0 < e := by linarith
    have hK' : 0 < K := by linarith
    have hd : 0 < e - T + K / 2 := by linarith
    have hsq : (e - T + K / 2) ^ 2 / (2 * K) ≤ (e - T + K / 2) / 2 := by
      rw [div_le_div_iff₀ (by linarith) (by norm_num)]
      nlinarith
    have hsq0 : 0 ≤ (e - T + K / 2) ^ 2 / (2 * K) := by positivity
    rw [mul_div_assoc]
    constructor
    · exact div_pos (by nlinarith) he'
    · rw [div_le_one he']; nlinarith
  · have he' : 0 < e := by linarith
    have hdiv : (e - T) / R ≤ e - T := div_le_self (by linarith) hR
    have hdiv0 : 0 ≤ (e - T) / R := div_nonneg (by linarith) (by linarith)
    constructor
    · exact div_pos (by linarith) he'
    · rw [div_le_one he']; linarith

/-- The instance made of the defaults of 00_scope.md R5 and R6. `urand` has no default; here it is 0. It shows that the
properties can be met together. -/
def Config.default : Config where
  fs := 48000
  alphaSmooth := 1 / 8
  alphaFast := 1 / 2
  tFloorMs := 10
  pitchModCents := 600
  peakGainDb := 0
  delayMaxMs := 1000
  revMinMs := 1
  revMaxMs := 10000
  wsN := 1024
  wsKMax := 100
  piQ := 3141592653589793 / 1000000000000000
  limT := 1 / 2
  limKnee := 0
  limRatio := 4
  limAAtt := 1 / 2
  limARel := 1 / 64
  capChunk := 128
  q := fun x => x
  exp2Cents := defaultExp2Cents
  lfoShape := defaultLfoShape
  panLaw := defaultPanLaw
  biquadCoef := defaultBiquad (3141592653589793 / 1000000000000000) 0
  limCurve := defaultLimCurve (1 / 2) 0 4
  urand := fun _ _ _ _ => 0
  fs_pos := by norm_num
  fs_default := fun _ => by norm_num
  alphaSmooth_pos := by norm_num
  alphaSmooth_lt := by norm_num
  alphaFast_le := by norm_num
  tFloorMs_pos := by norm_num
  pitchModCents_pos := by norm_num
  delayMaxMs_pos := by norm_num
  revMinMs_pos := by norm_num
  revMinMs_le := by norm_num
  wsN_ge := by norm_num
  wsKMax_pos := by norm_num
  piQ_pos := by norm_num
  limT_pos := by norm_num
  limKnee_nonneg := by norm_num
  limKnee_lt := by norm_num
  limRatio_ge := by norm_num
  limAAtt_pos := by norm_num
  limAAtt_le := by norm_num
  limARel_pos := by norm_num
  limARel_le := by norm_num
  capChunk_pos := by norm_num
  exp2Cents_octave := defaultExp2Cents_octave
  exp2Cents_pos := defaultExp2Cents_pos
  exp2Cents_mono := defaultExp2Cents_mono
  lfoShape_bound := defaultLfoShape_bound
  panLaw_neg_one := by norm_num [defaultPanLaw]
  panLaw_one := by norm_num [defaultPanLaw]
  panLaw_range := defaultPanLaw_range
  limCurve_pos := fun e _ => (defaultLimCurve_bounds _ _ _ e (by norm_num) (by norm_num) (by norm_num)).1
  limCurve_le := fun e _ => (defaultLimCurve_bounds _ _ _ e (by norm_num) (by norm_num) (by norm_num)).2
  limCurve_below := fun e _ h => by simp only [defaultLimCurve]; rw [if_pos h]
  urand_ge := fun _ _ _ _ => by norm_num
  urand_lt := fun _ _ _ _ => by norm_num

/-! ### The build -/

/-- The parameters, functions and draws the build supplies. It has no body: nothing is known of it (log 1). -/
opaque Config.supplied : Option Config

/-- The configuration the machine runs with: what the build supplies, or the spec's defaults where it supplies nothing.
Which of the two it is cannot be seen either, so a statement about it holds for every `Config` (log 1). -/
def Config.build : Config := Config.supplied.getD Config.default

end Sys2Proof
end

