-- ==== Sys2Proof/Machine/Memory.lean ====
section
/-!
DEFINITION. The sample memories `DL`, `RH`, `IR`, `LUT` (20_memory.md R60 to R64): element-addressed, one exact rational
per cell, held as a list of (address, sample) pairs in one canonical form (log 8).
-/

namespace Sys2Proof.Machine

/-- The contents of one channel of a sample memory: the cells that do not hold 0, by rising address. A cell not listed
holds 0: the reset content of `DL` and `RH` (20_memory.md R61, R62), and 0 wherever a written table holds 0. -/
abbrev SampleMem := List (Nat × Rat)

/-- The canonical form: addresses strictly rising, no cell listed that holds 0. Equal memories are equal lists. -/
abbrev memWf (m : SampleMem) : Prop :=
  m.Pairwise (fun p r => p.1 < r.1) ∧ ∀ p ∈ m, p.2 ≠ 0

/-- `MemRead(space, c, a)` for one channel (00_scope.md R10). -/
def memRead : SampleMem → Nat → Rat
  | [], _ => 0
  | (b, x) :: m, a => if a = b then x else memRead m a

/-- `MemWrite(space, c, a, val)` for one channel (00_scope.md R10). -/
def memWrite : SampleMem → Nat → Rat → SampleMem
  | [], a, x => if x = 0 then [] else [(a, x)]
  | (b, y) :: m, a, x =>
    if a < b then (if x = 0 then (b, y) :: m else (a, x) :: (b, y) :: m)
    else if a = b then (if x = 0 then m else (a, x) :: m)
    else (b, y) :: memWrite m a x

/-- A memory written as a whole: cell `i` holds `f i` for `i < n` (20_memory.md R63, R64). -/
def memTable (n : Nat) (f : Nat → Rat) : SampleMem :=
  ((List.range n).map fun i => (i, f i)).filter fun p => decide (p.2 ≠ 0)

/-- `DL_LEN` (20_memory.md R61). -/
def dlLen (cfg : Config) : Nat := cfg.delayMaxMs * cfg.fs / 1000 + 1

/-- `RH_LEN` (20_memory.md R62). -/
def rhLen (cfg : Config) : Nat := max 1 (cfg.revMaxMs * cfg.fs / 1000)

end Sys2Proof.Machine
end

