-- ==== Sys2Proof/Machine/Operands.lean ====
section
/-!
DEFINITION. How a raw 16-bit register value is read: the helper functions of 00_scope.md R11, the unit conversions of
R12, and the enumeration codes of 10_state.md R23.
-/

namespace Sys2Proof.Machine

/-- `clamp(x, lo, hi)` (00_scope.md R11). -/
def clamp (x lo hi : Rat) : Rat := if x < lo then lo else if hi < x then hi else x

/-- `clamp` on whole numbers of milliseconds (00_scope.md R11). -/
def clampNat (x lo hi : Nat) : Nat := if x < lo then lo else if hi < x then hi else x

/-- `frac(x) = x - floor(x)` (00_scope.md R11). -/
def frac (x : Rat) : Rat := x - (x.floor : Rat)

/-- `2^j` for an integer `j`, exact (00_scope.md R11). -/
def pow2 (j : Int) : Rat := (2 : Rat) ^ j

/-- `ms(r) = zext_16(r)`, milliseconds (00_scope.md R12). -/
def ms (r : Half) : Nat := r.toNat

/-- `milli(r) = zext_16(r)/1000` (00_scope.md R12). -/
def milli (r : Half) : Rat := (r.toNat : Rat) / 1000

/-- `smilli(r) = sext_16(r)/1000` (00_scope.md R12). -/
def smilli (r : Half) : Rat := (r.toInt : Rat) / 1000

/-- `hz(r) = zext_16(r)`, Hz (00_scope.md R12). -/
def hz (r : Half) : Rat := (r.toNat : Rat)

/-- `mhz(r) = zext_16(r)/1000`, Hz (00_scope.md R12). -/
def mhz (r : Half) : Rat := (r.toNat : Rat) / 1000

/-- `cents(r) = sext_16(r)` (00_scope.md R12). -/
def cents (r : Half) : Rat := (r.toInt : Rat)

/-- `int(r) = sext_16(r)` (00_scope.md R12). -/
def int16 (r : Half) : Int := r.toInt

/-- `ms_to_ticks(m) = m*FS/1000`, not rounded (00_scope.md R12, 43_envelope.md R160). -/
def msToTicks (cfg : Config) (m : Nat) : Rat := (m : Rat) * (cfg.fs : Rat) / 1000

/-- A time register as a ramp duration in ticks: clamped up to the floor (43_envelope.md R158, R160). -/
def rampTicks (cfg : Config) (r : Half) : Rat := msToTicks cfg (max (ms r) cfg.tFloorMs)

/-! ### Enumeration codes (10_state.md R23)

`WRP` keeps every enumeration register inside its closed set, so the last line of each map below is reached in no run
(log 9). -/

/-- The waveform of a `WAVEFORM` code. Codes above 4 are Tonal by the "otherwise" of `cat_of` (log 9). -/
def waveformOf (r : Half) : Waveform :=
  match r.toNat with
  | 0 => .sine
  | 1 => .triangle
  | 2 => .sawtooth
  | 3 => .square
  | 4 => .noise
  | _ => .sine

/-- `cat_of(w)` (10_state.md R23). -/
def catOf : Waveform → Category
  | .sine | .triangle | .sawtooth | .square => .tonal
  | .noise => .noise

/-- The LFO waveform of an `LFO_WAVE` code (log 9 for codes above 3). -/
def lfoWaveOf (r : Half) : LfoWave :=
  match r.toNat with
  | 0 => .sine
  | 1 => .triangle
  | 2 => .sawtooth
  | 3 => .square
  | _ => .sine

/-- The destination of an `LFO_TARGET` code; a code above 3 selects none (log 9). -/
def lfoTargetOf? (r : Half) : Option LfoTarget :=
  match r.toNat with
  | 0 => some .pitch
  | 1 => some .cutoff
  | 2 => some .amp
  | 3 => some .pan
  | _ => none

/-- The filter type of an `FTYPE` code (log 9 for codes above 4). -/
def filterTypeOf (r : Half) : FilterType :=
  match r.toNat with
  | 0 => .lowpass
  | 1 => .highpass
  | 2 => .bandpass
  | 3 => .notch
  | 4 => .peaking
  | _ => .lowpass

/-- The code shown on `src_wf` (41_voice_manager.md R133, R134). -/
def waveformCode : Waveform → Nat
  | .sine => 0
  | .triangle => 1
  | .sawtooth => 2
  | .square => 3
  | .noise => 4

end Sys2Proof.Machine
end

