-- ==== Sys2Proof/Machine/Curves.lean ====
section
/-!
DEFINITION. The two buffer builders: units `reverb_impulse_gen` and `waveshaper_lut` (45_curve_generators.md). Their
writes are quantiser points (00_scope.md R7).
-/

namespace Sys2Proof.Machine

/-- The grid point `x_i = -1 + 2*i/(WS_N - 1)` (45_curve_generators.md R210). -/
def gridPoint (cfg : Config) (i : Nat) : Rat := -1 + 2 * (i : Rat) / ((cfg.wsN : Rat) - 1)

/-- The waveshaper curve: the identity for `k = 0`, the formula for `k > 0` (45_curve_generators.md R210, R211). -/
def curve (cfg : Config) (k x : Rat) : Rat :=
  if k = 0 then x else (3 + k) * x * (cfg.piQ / 9) / (cfg.piQ + k * |x|)

/-- The table for intensity `k` (45_curve_generators.md R209). -/
def driveTable (cfg : Config) (k : Rat) : SampleMem :=
  memTable cfg.wsN fun i => cfg.q (curve cfg k (gridPoint cfg i))

/-- The table after reset: the identity on the grid (10_state.md R43). -/
def identityTable (cfg : Config) : SampleMem := memTable cfg.wsN (gridPoint cfg)

/-- The intensity of a `DRIVE` register value (45_curve_generators.md R209). -/
def driveIntensity (cfg : Config) (r : Half) : Rat := clamp (milli r) 0 1 * cfg.wsKMax

/-- The clamped decay of a `DECAY` register value, in ms (45_curve_generators.md R205). -/
def decayMs (cfg : Config) (r : Half) : Nat := clampNat (ms r) cfg.revMinMs cfg.revMaxMs

/-- The length `L` of the impulse response for a decay in ms (45_curve_generators.md R206). -/
def impulseLen (cfg : Config) (dms : Nat) : Nat := max 1 (dms * cfg.fs / 1000)

/-- The envelope factor `(1 - i/L)^2` (45_curve_generators.md R207). -/
def impulseEnvelope (L i : Nat) : Rat := (1 - (i : Rat) / (L : Rat)) ^ 2

/-- One channel of synthesis number `syn` in a session (45_curve_generators.md R205, R207). -/
def impulseChannel (cfg : Config) (session syn : Nat) (c : Chan) (L : Nat) : SampleMem :=
  memTable L fun i => cfg.q (cfg.urand session syn c i * impulseEnvelope L i)

end Sys2Proof.Machine
end

