-- ==== Sys2Proof/Machine/State.lean ====
section
/-!
DEFINITION. The state of the block (10_state.md R20), its reset value (R47), and the reasons a step could stop.
Fields that are the model's own, not the spec's, stand at the end of `State` and say so.
-/

namespace Sys2Proof.Machine

/-- The registers of one voice group of `P`, 16 raw bits each (10_state.md R22, R25). -/
structure VoicePatch where
  waveform : Half
  enabled : Half
  detune : Half
  gain : Half
  octave : Half
  pan : Half
  envA : Half
  envD : Half
  envS : Half
  envR : Half
  lfoWave : Half
  lfoRate : Half
  lfoDepth : Half
  lfoTarget : Half
deriving DecidableEq, Repr

/-- The staged Patch bank `P` (10_state.md R21, R22). -/
structure Patch where
  voices : Triple VoicePatch
  cutoff : Half
  resonance : Half
  ftype : Half
  dtime : Half
  feedback : Half
  dmix : Half
  decay : Half
  rmix : Half
  mgain : Half
  drive : Half
deriving DecidableEq, Repr

/-- `RUN` (10_state.md R28). -/
inductive RunState where
  | uninit
  | running
  | suspended
deriving DecidableEq, Repr

/-- `CAP` (10_state.md R45). -/
inductive CapState where
  | idle
  | recording
deriving DecidableEq, Repr

/-- `V[v].route` (10_state.md R36). -/
inductive Route where
  | none
  | pitch
  | cutoff
  | amp
  | pan
deriving DecidableEq, Repr

/-- A smoother `(cur, tgt, alpha, valid)` (10_state.md R35). -/
structure Smoother where
  cur : Rat
  tgt : Rat
  alpha : Rat
  valid : Bool
deriving DecidableEq, Repr

/-- The envelope record `E`: one constructor per `kind`, with the fields that kind has (10_state.md R37). -/
inductive Envelope where
  | hold (x : Rat)
  | ad (t0 : Nat) (v0 aT dT s : Rat)
  | rel (t0 : Nat) (v0 rT : Rat)
deriving DecidableEq, Repr

/-- `V[v].adsr`: raw copies of `ENV_A`, `ENV_D`, `ENV_S`, `ENV_R` (10_state.md R36). -/
structure Adsr where
  a : Half
  d : Half
  s : Half
  r : Half
deriving DecidableEq, Repr

/-- The voice record `V[v]` (10_state.md R36). `present` is the spec's `exists`, `env` its `E`. -/
structure Voice where
  present : Bool
  cat : Category
  wf : Waveform
  en : Bool
  epoch : Nat
  freq : Smoother
  det : Smoother
  rate : Smoother
  lvl : Smoother
  pan : Smoother
  lforate : Smoother
  adsr : Adsr
  env : Envelope
  lfoWf : LfoWave
  lfoPh : Rat
  route : Route
  amt : Rat
deriving DecidableEq, Repr

/-- The effects record `FX` (10_state.md R39). -/
structure Effects where
  fxv : Bool
  ftype : FilterType
  fc : Smoother
  fq : Smoother
  dtime : Smoother
  dfb : Smoother
  dmix : Smoother
  rmix : Smoother
  mgain : Smoother
  k : Rat
  irMs : Option Nat
  irLen : Nat
  syn : Nat
deriving DecidableEq, Repr

/-- The filter state of one channel (10_state.md R40). -/
structure FilterState where
  fx1 : Rat
  fx2 : Rat
  fy1 : Rat
  fy2 : Rat
deriving DecidableEq, Repr

/-- The control outputs of one existing source generator (40_commands.md R100; 41_voice_manager.md R133, R134). -/
structure SrcControl where
  cat : Category
  wf : Nat
  freq : Rat
  rate : Rat
  epoch : Nat
deriving DecidableEq, Repr

/-- What the output ports of 40_commands.md R100 last showed (log 5). A voice whose `src_exists` is 0 is `none`: its
other outputs are unspecified (41_voice_manager.md R133, log 19). `capFrame` is `some (cap_l, cap_r)` where
`cap_valid = 1`. The tap ports equal the output frame (44_effects_bus.md R198) and are not stored twice. -/
structure Ports where
  out : Frame
  outValid : Bool
  capFrame : Option Frame
  capLast : Bool
  src : Triple (Option SrcControl)
deriving DecidableEq, Repr

/-- One event at the block's inputs (40_commands.md R100, R101; log 3). -/
inductive HostEvent where
  /-- The command port takes a word: it is appended to `CQ` (10_state.md R46). -/
  | push (w : Word)
  /-- The control agent takes a step. -/
  | command
  /-- A `tick` pulse with the three source samples `src_in[v]`. -/
  | tick (src : Triple Rat)
  /-- The response port hands over the head of `RQ` (10_state.md R46). -/
  | take
  /-- `rst` (70_reset_and_hazards.md R250). -/
  | rst
deriving DecidableEq, Repr

/-- The state of the block. -/
structure State where
  /-- `P` (10_state.md R21). -/
  patch : Patch
  /-- `RUN` (10_state.md R28). -/
  run : RunState
  /-- `t` (10_state.md R27). -/
  t : Nat
  /-- `ERR_ILL` (10_state.md R29). -/
  errIll : Bool
  /-- `ERR_CAP` (10_state.md R29). -/
  errCap : Bool
  /-- `V[v]` (10_state.md R36). -/
  voices : Triple Voice
  /-- `FX` (10_state.md R39). -/
  fx : Effects
  /-- `fx1, fx2, fy1, fy2` per channel (10_state.md R40). -/
  filt : Stereo FilterState
  /-- `DL` (20_memory.md R61). -/
  dl : Stereo SampleMem
  /-- `RH` (20_memory.md R62). -/
  rh : Stereo SampleMem
  /-- `IR` (20_memory.md R63). -/
  ir : Stereo SampleMem
  /-- `LUT` (20_memory.md R64). -/
  lut : SampleMem
  /-- `lim_e` (10_state.md R44). -/
  limE : Rat
  /-- `CAP` (10_state.md R45). -/
  cap : CapState
  /-- `tap_created` (10_state.md R45). -/
  tapCreated : Bool
  /-- `REC`, the first frame first (10_state.md R45). -/
  recBuf : List Frame
  /-- `CQ`, its head first (10_state.md R46). -/
  cq : List Word
  /-- `RQ`, its head first (10_state.md R46). -/
  rq : List Word
  /-- The MODEL's own: what the output ports last showed (log 5). -/
  ports : Ports
  /-- The MODEL's own: the `Recording(seq)` events emitted, the first one first (46_capture_sink.md R225, log 6). -/
  delivered : List (List Frame)
  /-- The MODEL's own: the host's events still to come, the next one first (log 3). -/
  pending : List HostEvent
  /-- The MODEL's own: the number of resets so far, which tells the draws of one session from another's (log 2). -/
  session : Nat
deriving DecidableEq, Repr

/-- Why a step stops the machine. Nothing does: "there is no refusal and no stuck state inside the block"
(00_scope.md R14), a tick always completes (40_commands.md R110), arithmetic and memory never fault
(60_exceptions.md R236). The spec's two errors are responses, that is next states (log 15). -/
inductive Fault where
deriving DecidableEq, Repr

/-- Why an instruction has no meaning. No meaning of this model answers with it (log 15). -/
inductive Refusal where
  /-- Raised by `exec` for an instruction without a meaning yet; no arm is such. Safe: the machine stops. -/
  | notModelled (mnemonic : String)
deriving DecidableEq, Repr

/-! ### Reset values (10_state.md R47) -/

/-- A smoother after reset: not valid; the other fields are unspecified and unread (10_state.md R35, log 7). -/
def Smoother.reset : Smoother := { cur := 0, tgt := 0, alpha := 0, valid := false }

/-- A voice group of `P` after reset: all 0 (10_state.md R24). -/
def VoicePatch.reset : VoicePatch where
  waveform := 0
  enabled := 0
  detune := 0
  gain := 0
  octave := 0
  pan := 0
  envA := 0
  envD := 0
  envS := 0
  envR := 0
  lfoWave := 0
  lfoRate := 0
  lfoDepth := 0
  lfoTarget := 0

/-- `P` after reset: all 0 (10_state.md R24). -/
def Patch.reset : Patch where
  voices := ⟨VoicePatch.reset, VoicePatch.reset, VoicePatch.reset⟩
  cutoff := 0
  resonance := 0
  ftype := 0
  dtime := 0
  feedback := 0
  dmix := 0
  decay := 0
  rmix := 0
  mgain := 0
  drive := 0

/-- A voice after reset: it does not exist; `epoch` 0, `route` None, `amt` 0, no smoother valid (10_state.md R47).
`cat`, `wf`, `en`, `adsr`, `env`, `lfoWf`, `lfoPh` are unspecified and unread (log 7). -/
def Voice.reset : Voice where
  present := false
  cat := .tonal
  wf := .sine
  en := false
  epoch := 0
  freq := Smoother.reset
  det := Smoother.reset
  rate := Smoother.reset
  lvl := Smoother.reset
  pan := Smoother.reset
  lforate := Smoother.reset
  adsr := ⟨0, 0, 0, 0⟩
  env := .hold 1
  lfoWf := .sine
  lfoPh := 0
  route := .none
  amt := 0

/-- `FX` after reset (10_state.md R39, R47). `ftype` is unspecified and unread (log 7). -/
def Effects.reset : Effects where
  fxv := false
  ftype := .lowpass
  fc := Smoother.reset
  fq := Smoother.reset
  dtime := Smoother.reset
  dfb := Smoother.reset
  dmix := Smoother.reset
  rmix := Smoother.reset
  mgain := Smoother.reset
  k := 0
  irMs := none
  irLen := 0
  syn := 0

/-- The ports after reset: outputs `(0, 0)`, `out_valid = 0` (70_reset_and_hazards.md R252); the rest shows nothing
(log 5). -/
def Ports.reset : Ports where
  out := ⟨0, 0⟩
  outValid := false
  capFrame := none
  capLast := false
  src := ⟨none, none, none⟩

/-- The machine right after reset (10_state.md R47, 70_reset_and_hazards.md R250). -/
def State.reset : State where
  patch := Patch.reset
  run := .uninit
  t := 0
  errIll := false
  errCap := false
  voices := ⟨Voice.reset, Voice.reset, Voice.reset⟩
  fx := Effects.reset
  filt := ⟨⟨0, 0, 0, 0⟩, ⟨0, 0, 0, 0⟩⟩
  dl := ⟨[], []⟩
  rh := ⟨[], []⟩
  ir := ⟨[], []⟩
  lut := identityTable Config.build
  limE := 0
  cap := .idle
  tapCreated := false
  recBuf := []
  cq := []
  rq := []
  ports := Ports.reset
  delivered := []
  pending := []
  session := 0

end Sys2Proof.Machine
end

