-- ==== Sys2Proof/Machine/EnvCurve.lean ====
section
/-!
DEFINITION. The envelope as a function of the tick counter: its value and its state (43_envelope.md R162, R163).
-/

namespace Sys2Proof.Machine

/-- `env_val(E, tau)`, with `u = tau - E.t0` (43_envelope.md R162). It is not a quantiser point (log 10). -/
def envVal (e : Envelope) (tau : Nat) : Rat :=
  match e with
  | .hold x => x
  | .ad t0 v0 aT dT s =>
    let u : Rat := (tau : Rat) - (t0 : Rat)
    if u < aT then v0 + (1 - v0) * u / aT
    else if u < aT + dT then 1 + (s - 1) * (u - aT) / dT
    else s
  | .rel t0 v0 rT =>
    let u : Rat := (tau : Rat) - (t0 : Rat)
    if u < rT then v0 * (1 - u / rT) else 0

/-- The envelope states (43_envelope.md R163). -/
inductive EnvState where
  | idle
  | attack
  | decay
  | sustain
  | release
deriving DecidableEq, Repr

/-- `env_state(E, tau)` (43_envelope.md R163). -/
def envState (e : Envelope) (tau : Nat) : EnvState :=
  match e with
  | .hold _ => .sustain
  | .ad t0 _ aT dT _ =>
    let u : Rat := (tau : Rat) - (t0 : Rat)
    if u < aT then .attack else if u < aT + dT then .decay else .sustain
  | .rel t0 _ rT =>
    let u : Rat := (tau : Rat) - (t0 : Rat)
    if u < rT then .release else .idle

end Sys2Proof.Machine
end

