-- ==== Sys2Proof/Machine/Ops.lean ====
section
/-!
DEFINITION. The named operations over registers, smoothers and queues, and the one operation that answers an error.
-/

namespace Sys2Proof.Machine

/-! ### The staged bank `P` (00_scope.md R10) -/

/-- The register of a voice group. -/
def VoicePatch.read (p : VoicePatch) : VoiceReg → Half
  | .waveform => p.waveform
  | .enabled => p.enabled
  | .detune => p.detune
  | .gain => p.gain
  | .octave => p.octave
  | .pan => p.pan
  | .envA => p.envA
  | .envD => p.envD
  | .envS => p.envS
  | .envR => p.envR
  | .lfoWave => p.lfoWave
  | .lfoRate => p.lfoRate
  | .lfoDepth => p.lfoDepth
  | .lfoTarget => p.lfoTarget

/-- The voice group with one register replaced. -/
def VoicePatch.write (p : VoicePatch) (r : VoiceReg) (x : Half) : VoicePatch :=
  match r with
  | .waveform => { p with waveform := x }
  | .enabled => { p with enabled := x }
  | .detune => { p with detune := x }
  | .gain => { p with gain := x }
  | .octave => { p with octave := x }
  | .pan => { p with pan := x }
  | .envA => { p with envA := x }
  | .envD => { p with envD := x }
  | .envS => { p with envS := x }
  | .envR => { p with envR := x }
  | .lfoWave => { p with lfoWave := x }
  | .lfoRate => { p with lfoRate := x }
  | .lfoDepth => { p with lfoDepth := x }
  | .lfoTarget => { p with lfoTarget := x }

/-- `P[g, i]`: the raw 16 bits (00_scope.md R10, 10_state.md R25). -/
def Patch.read (p : Patch) : PatchReg → Half
  | .voice v r => (p.voices.get v).read r
  | .effect .cutoff => p.cutoff
  | .effect .resonance => p.resonance
  | .effect .ftype => p.ftype
  | .effect .dtime => p.dtime
  | .effect .feedback => p.feedback
  | .effect .dmix => p.dmix
  | .effect .decay => p.decay
  | .effect .rmix => p.rmix
  | .effect .mgain => p.mgain
  | .effect .drive => p.drive

/-- `P[g, i] <- x` (00_scope.md R10, 30_encoding.md R86). -/
def Patch.write (p : Patch) (r : PatchReg) (x : Half) : Patch :=
  match r with
  | .voice v r => { p with voices := p.voices.set v ((p.voices.get v).write r x) }
  | .effect .cutoff => { p with cutoff := x }
  | .effect .resonance => { p with resonance := x }
  | .effect .ftype => { p with ftype := x }
  | .effect .dtime => { p with dtime := x }
  | .effect .feedback => { p with feedback := x }
  | .effect .dmix => { p with dmix := x }
  | .effect .decay => { p with decay := x }
  | .effect .rmix => { p with rmix := x }
  | .effect .mgain => { p with mgain := x }
  | .effect .drive => { p with drive := x }

/-! ### Smoothers -/

/-- `retarget(s, x, a)` (41_voice_manager.md R129). -/
def retarget (s : Smoother) (x a : Rat) : Smoother :=
  if s.valid = false then { cur := x, tgt := x, alpha := a, valid := true }
  else if x ≠ s.tgt then { s with tgt := x, alpha := a }
  else s

/-- `advance(s)`, performed on valid smoothers only (41_voice_manager.md R130). -/
def advance (s : Smoother) : Smoother :=
  if s.valid = true then { s with cur := s.cur + s.alpha * (s.tgt - s.cur) } else s

/-- A smoother made not valid; its other fields are then read by no rule (10_state.md R35). -/
def invalidate (s : Smoother) : Smoother := { s with valid := false }

/-! ### Responses and errors -/

/-- The response codes (30_encoding.md R83). -/
inductive RespCode where
  | ok
  | errIllegal
  | errCapture
deriving DecidableEq, Repr

/-- The number of a response code (30_encoding.md R83). -/
def respCodeBits : RespCode → BitVec 4
  | .ok => 0
  | .errIllegal => 1
  | .errCapture => 2

/-- The response word `{code[3:0], 12 zero bits, data[15:0]}` (30_encoding.md R82). -/
def respWord (code : RespCode) (data : Half) : Word := respCodeBits code ++ (0 : BitVec 12) ++ data

/-- `respond(code, data)`: one word appended to `RQ` (00_scope.md R10, 10_state.md R46). -/
def respond (code : RespCode) (data : Half) (s : State) : State :=
  { s with rq := s.rq ++ [respWord code data] }

/-- The block's two errors (60_exceptions.md R231, R232). -/
inductive BlockError where
  | illegal
  | capture
deriving DecidableEq, Repr

/-- The whole effect of an error: one sticky flag and one response (60_exceptions.md R231, R232, R239). It saves
nothing and sends control nowhere, so there is no return operation (R240). -/
def raiseError (e : BlockError) (s : State) : State :=
  match e with
  | .illegal => respond .errIllegal 0 { s with errIll := true }
  | .capture => respond .errCapture 0 { s with errCap := true }

/-- The output and the capture port while the engine is not RUNNING: `(0, 0)`, `out_valid = 0`, `cap_valid = 0`
(40_commands.md R110, 60_exceptions.md R245). -/
def idlePorts (p : Ports) : Ports := { p with out := ⟨0, 0⟩, outValid := false, capFrame := none }

/-- A command that acts only once the engine has been started, and is answered OK without acting before
(40_commands.md R103). -/
def whenStarted (f : State → State) (s : State) : State :=
  match s.run with
  | .uninit => respond .ok 0 s
  | .running => f s
  | .suspended => f s

end Sys2Proof.Machine
end

