-- ==== Sys2Proof/Machine/Lfo.lean ====
section
/-!
DEFINITION. The Modulation Router and unit `lfo_modulator`: the LFO part of APPLY and the LFO in a tick
(42_modulation_router.md).
-/

namespace Sys2Proof.Machine

/-! ### The LFO part of APPLY -/

/-- The route to a destination (42_modulation_router.md R142). -/
def routeTo : LfoTarget → Route
  | .pitch => .pitch
  | .cutoff => .cutoff
  | .amp => .amp
  | .pan => .pan

/-- The amount at full depth, in the destination's units (42_modulation_router.md R142). -/
def fullDepth (cfg : Config) : LfoTarget → Rat
  | .pitch => cfg.pitchModCents
  | .cutoff => cutoffModHz
  | .amp => ampMod
  | .pan => panMod

/-- The LFO's rate target (42_modulation_router.md R145). -/
def lfoRateTarget (r : Half) : Rat := max (mhz r) (1 / 1000)

/-- Disconnect (42_modulation_router.md R141). -/
def disconnect (V : Voice) : Voice := { V with route := .none, amt := 0 }

/-- Connect, only if the voice is enabled (42_modulation_router.md R142, R143). -/
def connect (cfg : Config) (p : VoicePatch) (V : Voice) : Voice :=
  if V.en then
    match lfoTargetOf? p.lfoTarget with
    | some d => { V with route := routeTo d, amt := clamp (milli p.lfoDepth) 0 1 * fullDepth cfg d }
    | none => V
  else V

/-- Rate, waveform, disconnect, connect, in this order (42_modulation_router.md R140). -/
def applyLfo (cfg : Config) (p : VoicePatch) (V : Voice) : Voice :=
  connect cfg p (disconnect
    { V with
      lforate := retarget V.lforate (lfoRateTarget p.lfoRate) cfg.alphaSmooth
      lfoWf := lfoWaveOf p.lfoWave })

/-! ### The LFO in a tick -/

/-- `lfo[v]` (42_modulation_router.md R148). -/
def lfoOut (cfg : Config) (V : Voice) : Rat := cfg.lfoShape V.lfoWf V.lfoPh

/-- The modulation a voice sends to a destination: `pmod`, `amod`, `nmod`, and its share of `cmod`
(42_modulation_router.md R149). -/
def modTerm (cfg : Config) (V : Voice) (r : Route) : Rat :=
  if V.route = r then V.amt * lfoOut cfg V else 0

/-- The phase after a tick, from the rate held when the tick starts (42_modulation_router.md R146). -/
def nextPhase (cfg : Config) (V : Voice) : Rat := frac (V.lfoPh + V.lforate.cur / (cfg.fs : Rat))

/-- A sum over the existing voices (00_scope.md R11, 40_commands.md R111). -/
def sumVoices (vs : Triple Voice) (f : VoiceId → Voice → Rat) : Rat :=
  (if vs.v0.present then f .v0 vs.v0 else 0) + (if vs.v1.present then f .v1 vs.v1 else 0) +
    (if vs.v2.present then f .v2 vs.v2 else 0)

/-- `cmod` (42_modulation_router.md R149). -/
def cutoffMod (cfg : Config) (vs : Triple Voice) : Rat := sumVoices vs fun _ V => modTerm cfg V .cutoff

end Sys2Proof.Machine
end

