-- ==== Sys2Proof/Machine/VoiceManager.lean ====
section
/-!
DEFINITION. The Voice Manager: what APPLY does to one voice, and what one voice computes in a tick
(41_voice_manager.md).
-/

namespace Sys2Proof.Machine

/-! ### APPLY, one voice -/

/-- `create(v, w, en_new)` (41_voice_manager.md R122). -/
def createVoice (w : Waveform) (enNew : Bool) (V : Voice) : Voice :=
  { V with
    present := true
    cat := catOf w
    epoch := 1
    en := enNew
    env := .hold 1
    lfoPh := 0
    route := .none
    amt := 0
    freq := invalidate V.freq
    det := invalidate V.det
    rate := invalidate V.rate
    lvl := invalidate V.lvl
    pan := invalidate V.pan
    lforate := invalidate V.lforate }

/-- `replace(v, newcat)` (41_voice_manager.md R123). -/
def replaceSource (newcat : Category) (V : Voice) : Voice :=
  { V with
    cat := newcat
    epoch := V.epoch + 1
    freq := invalidate V.freq
    det := invalidate V.det
    rate := invalidate V.rate }

/-- Creation, replacement, or neither, then the waveform latch (41_voice_manager.md R120, R124). -/
def settleSource (w : Waveform) (enNew : Bool) (V : Voice) : Voice :=
  let V' :=
    if V.present = false then createVoice w enNew V
    else if V.cat ≠ catOf w then replaceSource (catOf w) V
    else V
  { V' with wf := w }

/-- Base frequency, Hz (41_voice_manager.md R125). -/
def baseFreq (p : VoicePatch) : Rat := refPitch * pow2 (int16 p.octave)

/-- Playback rate of a Noise voice (41_voice_manager.md R127). -/
def noiseRate (cfg : Config) (p : VoicePatch) : Rat := pow2 (int16 p.octave) * cfg.exp2Cents (cents p.detune)

/-- Pitch targets, by category (41_voice_manager.md R125 to R127). -/
def pitchTargets (cfg : Config) (p : VoicePatch) (V : Voice) : Voice :=
  match V.cat with
  | .tonal =>
    { V with
      freq := retarget V.freq (baseFreq p) cfg.alphaSmooth
      det := retarget V.det (cents p.detune) cfg.alphaSmooth }
  | .noise => { V with rate := retarget V.rate (noiseRate cfg p) cfg.alphaSmooth }

/-- The level target: the clamped gain, or 0 when not enabled (41_voice_manager.md R128). -/
def levelTarget (p : VoicePatch) (enNew : Bool) : Rat := if enNew then clamp (milli p.gain) 0 1 else 0

/-- Pan and level targets; the level is fast when `enabled` toggles (41_voice_manager.md R128). `V.en` is still the
previously applied flag. -/
def panLevelTargets (cfg : Config) (p : VoicePatch) (enNew : Bool) (V : Voice) : Voice :=
  { V with
    pan := retarget V.pan (clamp (smilli p.pan) (-1) 1) cfg.alphaSmooth
    lvl := retarget V.lvl (levelTarget p enNew) (if enNew ≠ V.en then cfg.alphaFast else cfg.alphaSmooth) }

/-- Latches: the four raw envelope registers and the new flag (41_voice_manager.md R131). -/
def latchVoice (p : VoicePatch) (enNew : Bool) (V : Voice) : Voice :=
  { V with adsr := ⟨p.envA, p.envD, p.envS, p.envR⟩, en := enNew }

/-- `P[v, ENABLED] = 1` (41_voice_manager.md R120). -/
def enabledFlag (p : VoicePatch) : Bool := p.enabled == 1

/-- APPLY on one voice (41_voice_manager.md R120). -/
def applyVoice (cfg : Config) (p : VoicePatch) (V : Voice) : Voice :=
  applyLfo cfg p
    (latchVoice p (enabledFlag p)
      (panLevelTargets cfg p (enabledFlag p)
        (pitchTargets cfg p (settleSource (waveformOf p.waveform) (enabledFlag p) V))))

/-! ### The voice in a tick -/

/-- The source controls of a voice: absent, Tonal or Noise (41_voice_manager.md R133, R134). -/
def srcControl (cfg : Config) (V : Voice) : Option SrcControl :=
  if V.present = false then none
  else
    match V.cat with
    | .tonal =>
      some
        { cat := .tonal
          wf := waveformCode V.wf
          freq := V.freq.cur * cfg.exp2Cents (V.det.cur + modTerm cfg V .pitch)
          rate := 0
          epoch := V.epoch }
    | .noise =>
      some
        { cat := .noise
          wf := 4
          freq := 0
          rate := V.rate.cur * cfg.exp2Cents (modTerm cfg V .pitch)
          epoch := V.epoch }

/-- `lev[v]` (41_voice_manager.md R135, 42_modulation_router.md R150). -/
def voiceLevel (cfg : Config) (V : Voice) : Rat := clamp (V.lvl.cur + modTerm cfg V .amp) 0 1

/-- `m[v]`, the mono sample after level and envelope (41_voice_manager.md R135). -/
def voiceMono (cfg : Config) (t : Nat) (V : Voice) (x : Rat) : Rat := x * voiceLevel cfg V * envVal V.env t

/-- `pp[v]` (41_voice_manager.md R136, 42_modulation_router.md R150). -/
def voicePan (cfg : Config) (V : Voice) : Rat := clamp (V.pan.cur + modTerm cfg V .pan) (-1) 1

/-- `vs[v]` in one channel (41_voice_manager.md R136). -/
def voiceSample (cfg : Config) (t : Nat) (V : Voice) (x : Rat) (c : Chan) : Rat :=
  voiceMono cfg t V x * (cfg.panLaw (voicePan cfg V)).get c

/-- `fin`, the first summing point of `audio_mixer` (41_voice_manager.md R137). -/
def finSig (cfg : Config) (src : Triple Rat) (s : State) (c : Chan) : Rat :=
  sumVoices s.voices fun v V => voiceSample cfg s.t V (src.get v) c

/-- The end of a tick for one voice: the phase, then every valid smoother (40_commands.md R111 steps 15, 16). -/
def advanceVoice (cfg : Config) (V : Voice) : Voice :=
  if V.present then
    { V with
      lfoPh := nextPhase cfg V
      freq := advance V.freq
      det := advance V.det
      rate := advance V.rate
      lvl := advance V.lvl
      pan := advance V.pan
      lforate := advance V.lforate }
  else V

end Sys2Proof.Machine
end

