-- ==== Sys2Proof/Machine/EffectsBus.lean ====
section
/-!
DEFINITION. The Effects Bus: the effect part of APPLY, and the units `iir_filter_stage`, `delay_line_buffer`, the
reverb convolver, the drive stage, master gain and `master_limiter` in a tick (44_effects_bus.md). The signals of a
tick are functions of the state at its start and its three samples.
-/

namespace Sys2Proof.Machine

/-! ### APPLY -/

/-- Effect parameters (44_effects_bus.md R175 to R179). -/
def applyEffects (cfg : Config) (p : Patch) (fx : Effects) : Effects :=
  { fx with
    fc := retarget fx.fc (clamp (hz p.cutoff) cutoffMin cutoffMax) cfg.alphaSmooth
    fq := retarget fx.fq (clamp (milli p.resonance) 0 qMax) cfg.alphaSmooth
    ftype := filterTypeOf p.ftype
    dtime := retarget fx.dtime (clamp (ms p.dtime) 0 cfg.delayMaxMs / 1000) cfg.alphaSmooth
    dfb := retarget fx.dfb (clamp (milli p.feedback) 0 fbMax) cfg.alphaSmooth
    dmix := retarget fx.dmix (clamp (milli p.dmix) 0 1) cfg.alphaSmooth
    rmix := retarget fx.rmix (clamp (milli p.rmix) 0 1) cfg.alphaSmooth
    mgain := retarget fx.mgain (milli p.mgain) cfg.alphaSmooth }

/-! ### The filter -/

/-- `fc_eff` (44_effects_bus.md R180, 42_modulation_router.md R150). -/
def cutoffEff (cfg : Config) (s : State) : Rat :=
  clamp (s.fx.fc.cur + cutoffMod cfg s.voices) cutoffMin cutoffMax

/-- The coefficients of the tick, the same for both channels (44_effects_bus.md R180). -/
def filterCoefs (cfg : Config) (s : State) : Coefs :=
  cfg.biquadCoef s.fx.ftype (cutoffEff cfg s) s.fx.fq.cur cfg.fs

/-- The output `y` of the section (44_effects_bus.md R181). -/
def sectionOut (k : Coefs) (f : FilterState) (x : Rat) : Rat :=
  k.b0 * x + k.b1 * f.fx1 + k.b2 * f.fx2 - k.a1 * f.fy1 - k.a2 * f.fy2

/-- The state of the section after it; each write is a quantiser point (44_effects_bus.md R181, 00_scope.md R7;
log 11). -/
def sectionNext (cfg : Config) (f : FilterState) (x y : Rat) : FilterState where
  fx1 := cfg.q x
  fx2 := cfg.q f.fx1
  fy1 := cfg.q y
  fy2 := cfg.q f.fy1

/-- `fout` (44_effects_bus.md R181). -/
def foutSig (cfg : Config) (src : Triple Rat) (s : State) (c : Chan) : Rat :=
  sectionOut (filterCoefs cfg s) (s.filt.get c) (finSig cfg src s c)

/-- The filter state of a channel after the tick (44_effects_bus.md R181). -/
def filterNext (cfg : Config) (src : Triple Rat) (s : State) (c : Chan) : FilterState :=
  sectionNext cfg (s.filt.get c) (finSig cfg src s c) (foutSig cfg src s c)

/-! ### The delay line -/

/-- `(t - d) mod n`, the cell of a ring of `n` cells that was written `d` ticks ago (20_memory.md R61, R62). -/
def ringIndex (t d n : Nat) : Nat := (((t : Int) - (d : Int)) % (n : Int)).toNat

/-- `D` (44_effects_bus.md R185). DESIGN CHOICE: where `DELAY_MAX_MS * FS < 1000`, so that `DL_LEN = 1`, the formula gives
1 although R61 and R185 bound `D` by `DL_LEN - 1`; the model follows the formula (log 22). -/
def delaySamples (cfg : Config) (s : State) : Nat := max 1 (s.fx.dtime.cur * (cfg.fs : Rat)).floor.toNat

/-- `dout` (44_effects_bus.md R185). -/
def doutSig (cfg : Config) (s : State) (c : Chan) : Rat :=
  memRead (s.dl.get c) (ringIndex s.t (delaySamples cfg s) (dlLen cfg))

/-- `din` (44_effects_bus.md R186). -/
def dinSig (cfg : Config) (src : Triple Rat) (s : State) (c : Chan) : Rat :=
  foutSig cfg src s c + s.fx.dfb.cur * doutSig cfg s c

/-- `DL` of a channel after the tick; the write is a quantiser point (44_effects_bus.md R186). -/
def delayNext (cfg : Config) (src : Triple Rat) (s : State) (c : Chan) : SampleMem :=
  memWrite (s.dl.get c) (s.t % dlLen cfg) (cfg.q (dinSig cfg src s c))

/-! ### The reverb convolver -/

/-- `RH` of a channel after the tick's write, a quantiser point (44_effects_bus.md R188). -/
def historyNext (cfg : Config) (src : Triple Rat) (s : State) (c : Chan) : SampleMem :=
  memWrite (s.rh.get c) (s.t % rhLen cfg) (cfg.q (foutSig cfg src s c))

/-- `rout`: the history, written first, against the impulse response (44_effects_bus.md R188). -/
def routSig (cfg : Config) (src : Triple Rat) (s : State) (c : Chan) : Rat :=
  ((List.range s.fx.irLen).map fun i =>
    memRead (s.ir.get c) i * memRead (historyNext cfg src s c) (ringIndex s.t i (rhLen cfg))).sum

/-! ### Drive stage, master gain, limiter -/

/-- `drv`, the second summing point of `audio_mixer` (44_effects_bus.md R190). -/
def drvSig (cfg : Config) (src : Triple Rat) (s : State) (c : Chan) : Rat :=
  foutSig cfg src s c + s.fx.dmix.cur * doutSig cfg s c + s.fx.rmix.cur * routSig cfg src s c

/-- `pos` of the lookup, for an input clamped to [-1, 1] (44_effects_bus.md R192). -/
def lutPos (cfg : Config) (x : Rat) : Rat := (clamp x (-1) 1 + 1) / 2 * ((cfg.wsN : Rat) - 1)

/-- `i` of the lookup (44_effects_bus.md R192). -/
def lutIndex (cfg : Config) (x : Rat) : Nat := min (lutPos cfg x).floor.toNat (cfg.wsN - 2)

/-- The waveshaper's lookup with linear interpolation (44_effects_bus.md R192). -/
def lutLookup (cfg : Config) (lut : SampleMem) (x : Rat) : Rat :=
  memRead lut (lutIndex cfg x) +
    (lutPos cfg x - (lutIndex cfg x : Rat)) *
      (memRead lut (lutIndex cfg x + 1) - memRead lut (lutIndex cfg x))

/-- `ws` (44_effects_bus.md R192). -/
def wsSig (cfg : Config) (src : Triple Rat) (s : State) (c : Chan) : Rat :=
  lutLookup cfg s.lut (drvSig cfg src s c)

/-- `mg` (44_effects_bus.md R194). -/
def mgSig (cfg : Config) (src : Triple Rat) (s : State) (c : Chan) : Rat :=
  s.fx.mgain.cur * wsSig cfg src s c

/-- The limiter's detector, shared by both channels (44_effects_bus.md R195). -/
def detectorNext (cfg : Config) (limE p : Rat) : Rat :=
  if limE < p then limE + cfg.limAAtt * (p - limE) else limE + cfg.limARel * (p - limE)

/-- `lim_e` after the tick (44_effects_bus.md R195). -/
def limNext (cfg : Config) (src : Triple Rat) (s : State) : Rat :=
  detectorNext cfg s.limE (max |mgSig cfg src s .left| |mgSig cfg src s .right|)

/-- `out`, a quantiser point (44_effects_bus.md R195, R198, 00_scope.md R7). -/
def outSig (cfg : Config) (src : Triple Rat) (s : State) (c : Chan) : Rat :=
  cfg.q (cfg.limCurve (limNext cfg src s) * mgSig cfg src s c)

/-! ### The end of a tick -/

/-- Every valid smoother of `FX` advances (40_commands.md R111 step 16). -/
def advanceEffects (fx : Effects) : Effects :=
  { fx with
    fc := advance fx.fc
    fq := advance fx.fq
    dtime := advance fx.dtime
    dfb := advance fx.dfb
    dmix := advance fx.dmix
    rmix := advance fx.rmix
    mgain := advance fx.mgain }

end Sys2Proof.Machine
end

