-- ==== Sys2Proof/Machine/Apply.lean ====
section
/-!
DEFINITION. Family "reconciliation": APPLY (41_voice_manager.md R120), with the impulse synthesis and the table of
45_curve_generators.md R205, R209.
-/

namespace Sys2Proof.Machine

/-- A new impulse response is due: there is none, or it was built for another clamped decay
(45_curve_generators.md R205). -/
def synthesisDue (cfg : Config) (s : State) : Bool := s.fx.irMs != some (decayMs cfg s.patch.decay)

/-- The impulse synthesis (45_curve_generators.md R205). -/
def synthesise (cfg : Config) (s : State) : State :=
  if synthesisDue cfg s then
    { s with
      ir := .each fun c =>
        impulseChannel cfg s.session (s.fx.syn + 1) c (impulseLen cfg (decayMs cfg s.patch.decay))
      fx :=
        { s.fx with
          syn := s.fx.syn + 1
          irLen := impulseLen cfg (decayMs cfg s.patch.decay)
          irMs := some (decayMs cfg s.patch.decay) } }
  else s

/-- The waveshaper's intensity and table (45_curve_generators.md R209). -/
def rebuildTable (cfg : Config) (s : State) : State :=
  { s with
    lut := driveTable cfg (driveIntensity cfg s.patch.drive)
    fx := { s.fx with k := driveIntensity cfg s.patch.drive } }

/-- The voices after APPLY; no voice reads another's record (41_voice_manager.md R120, R121). -/
def applyVoices (cfg : Config) (s : State) : Triple Voice :=
  .each fun v => applyVoice cfg (s.patch.voices.get v) (s.voices.get v)

/-- APPLY once the engine has been started (41_voice_manager.md R120). -/
def reconcile (cfg : Config) (s : State) : State :=
  let s1 := { s with voices := applyVoices cfg s, fx := applyEffects cfg s.patch s.fx }
  let s2 := rebuildTable cfg (synthesise cfg s1)
  respond .ok 0 { s2 with fx := { s2.fx with fxv := true } }

/-- `APPLY` (41_voice_manager.md R120). -/
def execApply (s : State) : Host.Outcome State Fault Refusal := .next (whenStarted (reconcile Config.build) s)

end Sys2Proof.Machine
end

