-- ==== Sys2Proof/Machine/Capture.lean ====
section
/-!
DEFINITION. Family "capture": CAPSTART, CAPSTOP (46_capture_sink.md R222, R223), what a tick appends (R224), and the
chunks of a recording (R226).
-/

namespace Sys2Proof.Machine

/-- CAPSTART once the engine has been started; idempotent while Recording (46_capture_sink.md R222). -/
def beginCapture (s : State) : State :=
  match s.cap with
  | .recording => respond .ok 0 s
  | .idle => respond .ok 0 { s with tapCreated := true, recBuf := [], cap := .recording }

/-- CAPSTOP while Recording: the recording is emitted, `cap_last` is pulsed (46_capture_sink.md R223, R225, R226). -/
def endCapture (s : State) : State :=
  respond .ok 0
    { s with
      delivered := s.delivered ++ [s.recBuf]
      recBuf := []
      cap := .idle
      ports := { s.ports with capLast := true } }

/-- `CAPSTART` (46_capture_sink.md R222). -/
def execCapstart (s : State) : Host.Outcome State Fault Refusal := .next (whenStarted beginCapture s)

/-- `CAPSTOP`: an error while Idle, in every run state (46_capture_sink.md R223). -/
def execCapstop (s : State) : Host.Outcome State Fault Refusal :=
  match s.cap with
  | .idle => .next (raiseError .capture s)
  | .recording => .next (endCapture s)

/-- `REC` after a tick whose output frame is `out` (46_capture_sink.md R224). -/
def recordFrame (cap : CapState) (buf : List Frame) (out : Frame) : List Frame :=
  match cap with
  | .recording => buf ++ [out]
  | .idle => buf

/-- What the capture port shows in a tick (46_capture_sink.md R226). -/
def capturePort (cap : CapState) (out : Frame) : Option Frame :=
  match cap with
  | .recording => some out
  | .idle => none

/-- Runs of `n` frames counted from the front, the last one perhaps shorter; `fuel` bounds their number. -/
def chunksUpTo (n : Nat) : Nat → List Frame → List (List Frame)
  | 0, _ => []
  | _ + 1, [] => []
  | fuel + 1, f :: fs => (f :: fs).take n :: chunksUpTo n fuel ((f :: fs).drop n)

/-- The chunks of a recording: runs of `CAP_CHUNK` frames (46_capture_sink.md R226). -/
def recordingChunks (cfg : Config) (seq : List Frame) : List (List Frame) := chunksUpTo cfg.capChunk seq.length seq

end Sys2Proof.Machine
end

