-- ==== Sys2Proof/Machine/Flags.lean ====
section
/-!
DEFINITION. The status registers: read-only views of the state, 16 bits each (10_state.md R30 to R34).
-/

namespace Sys2Proof.Machine

/-- The code of `RUN` (10_state.md R28). -/
def runCode : RunState → BitVec 2
  | .uninit => 0
  | .running => 1
  | .suspended => 2

/-- The code of an envelope state (10_state.md R31). -/
def envStateCode : EnvState → BitVec 3
  | .idle => 0
  | .attack => 1
  | .decay => 2
  | .sustain => 3
  | .release => 4

/-- The code of a route (10_state.md R33). -/
def routeCode : Route → BitVec 3
  | .none => 0
  | .pitch => 1
  | .cutoff => 2
  | .amp => 3
  | .pan => 4

/-- `STATUS`: bits 15:11 zero, 10:8 `EXISTS`, 7 zero, 6 `ERR_CAP`, 5 `ERR_ILL`, 4 `FXV`, 3 `TAP`, 2 `CAP`, 1:0 `RUN`
(10_state.md R30). -/
def statusWord (s : State) : Half :=
  (0 : BitVec 5) ++ BitVec.ofBool s.voices.v2.present ++ BitVec.ofBool s.voices.v1.present ++
    BitVec.ofBool s.voices.v0.present ++ (0 : BitVec 1) ++ BitVec.ofBool s.errCap ++ BitVec.ofBool s.errIll ++
    BitVec.ofBool s.fx.fxv ++ BitVec.ofBool s.tapCreated ++ BitVec.ofBool (s.cap == .recording) ++ runCode s.run

/-- A word with one 3-bit field per voice at bits `4v+2 : 4v`, all other bits 0 (10_state.md R31, R33). -/
def voiceFields (f : Triple (BitVec 3)) : Half :=
  (0 : BitVec 4) ++ (0 : BitVec 1) ++ f.v2 ++ (0 : BitVec 1) ++ f.v1 ++ (0 : BitVec 1) ++ f.v0

/-- The `ENVSTATE` field of a voice: 0 for a voice that does not exist (10_state.md R31). -/
def voiceEnvState (v : Voice) (t : Nat) : BitVec 3 :=
  if v.present then envStateCode (envState v.env t) else 0

/-- `ENVSTATE` (10_state.md R31). -/
def envStateWord (s : State) : Half := voiceFields (.each fun v => voiceEnvState (s.voices.get v) s.t)

/-- `TICKj`: quarter `j` of `t` (10_state.md R32). -/
def tickWord (s : State) (j : Nat) : Half := BitVec.ofNat 16 (s.t >>> (16 * j))

/-- `ROUTE` (10_state.md R33). -/
def routeWord (s : State) : Half := voiceFields (.each fun v => routeCode (s.voices.get v).route)

/-- `EPOCHv` (10_state.md R34). -/
def epochWord (s : State) (v : VoiceId) : Half := BitVec.ofNat 16 (s.voices.get v).epoch

/-- `ST[idx]` (40_commands.md R106). -/
def statusRead (s : State) : StatusReg → Half
  | .status => statusWord s
  | .envstate => envStateWord s
  | .tick0 => tickWord s 0
  | .tick1 => tickWord s 1
  | .tick2 => tickWord s 2
  | .tick3 => tickWord s 3
  | .route => routeWord s
  | .epoch0 => epochWord s .v0
  | .epoch1 => epochWord s .v1
  | .epoch2 => epochWord s .v2

end Sys2Proof.Machine
end

