-- ==== Sys2Proof/Machine/Registers.lean ====
section
/-!
DEFINITION. Family "register access": NOP, WRP, RDP, RDS (40_commands.md R113, R104, R105, R106). They act in every
run state (R103).
-/

namespace Sys2Proof.Machine

/-- `NOP` (40_commands.md R113). -/
def execNop (s : State) : Host.Outcome State Fault Refusal := .next (respond .ok 0 s)

/-- `WRP g.name, imm` (40_commands.md R104). A register outside the map is not an `Instr`: the decoder answers its word
as illegal. -/
def execWrp (r : PatchReg) (imm : Half) (s : State) : Host.Outcome State Fault Refusal :=
  if immLegal r imm then .next (respond .ok 0 { s with patch := s.patch.write r imm })
  else .next (raiseError .illegal s)

/-- `RDP g.name` (40_commands.md R105). -/
def execRdp (r : PatchReg) (s : State) : Host.Outcome State Fault Refusal :=
  .next (respond .ok (s.patch.read r) s)

/-- `RDS name` (40_commands.md R106). -/
def execRds (r : StatusReg) (s : State) : Host.Outcome State Fault Refusal :=
  .next (respond .ok (statusRead s r) s)

end Sys2Proof.Machine
end

