-- ==== Sys2Proof/Machine/RunControl.lean ====
section
/-!
DEFINITION. Family "run state": START, STOP (40_commands.md R107, R108).
-/

namespace Sys2Proof.Machine

/-- `START`: UNINIT and SUSPENDED go to RUNNING, nothing else changes (40_commands.md R107). -/
def startEngine (s : State) : State :=
  match s.run with
  | .uninit => { s with run := .running }
  | .suspended => { s with run := .running }
  | .running => s

/-- `STOP`: RUNNING goes to SUSPENDED, all state is kept (40_commands.md R108), and the outputs go idle
(60_exceptions.md R245; at once: log 5). -/
def stopEngine (s : State) : State :=
  match s.run with
  | .running => { s with run := .suspended, ports := idlePorts s.ports }
  | .uninit => s
  | .suspended => s

/-- `START` (40_commands.md R107). -/
def execStart (s : State) : Host.Outcome State Fault Refusal := .next (respond .ok 0 (startEngine s))

/-- `STOP` (40_commands.md R108). -/
def execStop (s : State) : Host.Outcome State Fault Refusal := .next (respond .ok 0 (stopEngine s))

end Sys2Proof.Machine
end

