-- ==== Sys2Proof/Machine/Triggers.lean ====
section
/-!
DEFINITION. Family "triggers", unit `envelope_gen`: ATTACK, RELEASE (43_envelope.md R155, R159).
-/

namespace Sys2Proof.Machine

/-- The schedule of an ATTACK at `t`: from the present value up to 1, then down to the sustain level
(43_envelope.md R155, R158, R160, R161). -/
def attackSchedule (cfg : Config) (a : Adsr) (e : Envelope) (t : Nat) : Envelope :=
  .ad t (envVal e t) (rampTicks cfg a.a) (rampTicks cfg a.d) (clamp (milli a.s) 0 1)

/-- The schedule of a RELEASE at `t`: from the present value down to 0 (43_envelope.md R159, R161). -/
def releaseSchedule (cfg : Config) (a : Adsr) (e : Envelope) (t : Nat) : Envelope :=
  .rel t (envVal e t) (rampTicks cfg a.r)

/-- A trigger on voice `v`: its schedule is replaced whole, in one step; a voice that does not exist is left alone
(43_envelope.md R157, 20_memory.md R72). -/
def trigger (schedule : Adsr → Envelope → Nat → Envelope) (v : VoiceId) (s : State) : State :=
  let V := s.voices.get v
  if V.present then
    respond .ok 0 { s with voices := s.voices.set v { V with env := schedule V.adsr V.env s.t } }
  else respond .ok 0 s

/-- `ATTACK v` (43_envelope.md R155). -/
def execAttack (v : VoiceId) (s : State) : Host.Outcome State Fault Refusal :=
  .next (whenStarted (trigger (attackSchedule Config.build) v) s)

/-- `RELEASE v` (43_envelope.md R159). -/
def execRelease (v : VoiceId) (s : State) : Host.Outcome State Fault Refusal :=
  .next (whenStarted (trigger (releaseSchedule Config.build) v) s)

end Sys2Proof.Machine
end

