-- ==== Sys2Proof/Machine/Dispatch.lean ====
section
/-!
DEFINITION. The meaning of every instruction, one arm per constructor.
-/

namespace Sys2Proof.Machine

def exec (i : Instr) (s : State) : Host.Outcome State Fault Refusal :=
  match i with
  | .nop => Sys2Proof.Machine.execNop s
  | .wrp r imm => Sys2Proof.Machine.execWrp r imm s
  | .rdp r => Sys2Proof.Machine.execRdp r s
  | .rds r => Sys2Proof.Machine.execRds r s
  | .apply => Sys2Proof.Machine.execApply s
  | .attack v => Sys2Proof.Machine.execAttack v s
  | .release v => Sys2Proof.Machine.execRelease v s
  | .start => Sys2Proof.Machine.execStart s
  | .stop => Sys2Proof.Machine.execStop s
  | .capstart => Sys2Proof.Machine.execCapstart s
  | .capstop => Sys2Proof.Machine.execCapstop s

end Sys2Proof.Machine
end

