-- ==== Sys2Proof/Machine/Render.lean ====
section
/-!
DEFINITION. The tick step of the render agent (40_commands.md R110, R111, R112).
-/

namespace Sys2Proof.Machine

/-- The tick step once an APPLY has acted: every signal from the state at its start, then the control state moves on
(40_commands.md R111). -/
def tickActive (cfg : Config) (src : Triple Rat) (s : State) : State :=
  let out : Frame := .each (outSig cfg src s)
  { s with
    filt := .each (filterNext cfg src s)
    dl := .each (delayNext cfg src s)
    rh := .each (historyNext cfg src s)
    limE := limNext cfg src s
    recBuf := recordFrame s.cap s.recBuf out
    ports :=
      { out := out
        outValid := true
        capFrame := capturePort s.cap out
        capLast := false
        src := .each fun v => srcControl cfg (s.voices.get v) }
    voices := .each fun v => advanceVoice cfg (s.voices.get v)
    fx := advanceEffects s.fx
    t := s.t + 1 }

/-- The tick step before the first APPLY: one silent frame, and `t` (40_commands.md R112). -/
def tickSilent (s : State) : State :=
  { s with
    recBuf := recordFrame s.cap s.recBuf ⟨0, 0⟩
    ports :=
      { out := ⟨0, 0⟩
        outValid := true
        capFrame := capturePort s.cap ⟨0, 0⟩
        capLast := false
        src := ⟨none, none, none⟩ }
    t := s.t + 1 }

/-- A `tick` pulse while not RUNNING: no state of the block changes, the outputs are idle (40_commands.md R110). -/
def tickIdle (s : State) : State :=
  { s with ports := { idlePorts s.ports with capLast := false } }

/-- A `Tick` event (40_commands.md R110 to R112). -/
def tickEvent (cfg : Config) (src : Triple Rat) (s : State) : State :=
  match s.run with
  | .running => if s.fx.fxv then tickActive cfg src s else tickSilent s
  | .uninit => tickIdle s
  | .suspended => tickIdle s

end Sys2Proof.Machine
end

