-- ==== Sys2Proof/Machine/Control.lean ====
section
/-!
DEFINITION. The control agent, the events at the inputs, and which agent moves next (40_commands.md R101,
20_memory.md R70).
-/

namespace Sys2Proof.Machine

/-- One command word: the instruction it encodes, or the illegal word of 30_encoding.md R92. -/
def execWord (w : Word) (s : State) : Host.Outcome State Fault Refusal :=
  match decode w with
  | .ok i => exec i s
  | .error _ => .next (raiseError .illegal s)

/-- The control agent's step: the head word of `CQ` is removed and executed (40_commands.md R101). With no word there it
has nothing to do. -/
def controlStep (s : State) : Host.Outcome State Fault Refusal :=
  match s.cq with
  | [] => .next s
  | w :: ws => execWord w { s with cq := ws }

/-- `rst`: every piece of state at its reset value (70_reset_and_hazards.md R250, R252). What the host still means to do
and the recordings it was given are not the block's to lose (log 6, log 13). -/
def resetEvent (s : State) : State :=
  { State.reset with pending := s.pending, delivered := s.delivered, session := s.session + 1 }

/-- The effect of one event (log 3). -/
def runEvent (e : HostEvent) (s : State) : Host.Outcome State Fault Refusal :=
  match e with
  | .push w => .next { s with cq := s.cq ++ [w] }
  | .command => controlStep s
  | .tick src => .next (tickEvent Config.build src s)
  | .take => .next { s with rq := s.rq.tail }
  | .rst => .next (resetEvent s)

/-- One step of the machine: the next event of the host's trace; when the trace is used up, the control agent goes on
with the words it has (log 3, log 4). -/
def machineStep (s : State) : Host.Outcome State Fault Refusal :=
  match s.pending with
  | [] => controlStep s
  | e :: es => runEvent e { s with pending := es }

end Sys2Proof.Machine
end

