-- ==== Sys2Proof/Machine/Step.lean ====
section
/-!
DEFINITION. The step function, and a command word placed where the next step takes it.
-/

namespace Sys2Proof.Machine

/-- One step (40_commands.md R101). -/
def step (s : State) : Host.Outcome State Fault Refusal := machineStep s

/-- `s` with the word at the head of `CQ` and the control agent's turn next, so that the very next step removes the
word and executes it on exactly `s` (log 4). -/
def State.withFetchWord (s : State) (nbits w : Nat) : State :=
  { s with cq := BitVec.ofNat 32 (w % 2 ^ nbits) :: s.cq, pending := .command :: s.pending }

end Sys2Proof.Machine
end

