-- ==== Sys2Proof/Safety.lean ====
section
/-!
DEFINITION. What counts as a safe run, and the invariant of the block, field by field, in the terms the statements use.
-/

namespace Sys2Proof.Machine

/-- A run from `s` never stops (00_scope.md R14). -/
def SafeRun (s : State) : Prop := ∀ k, ∃ t, Sys2Proof.core.run k s = .next t

/-- A sample memory in canonical form whose listed cells lie inside its length (20_memory.md R61 to R64, R67). -/
def MemoryOk (n : Nat) (m : SampleMem) : Prop := memWf m ∧ ∀ p ∈ m, p.1 < n

/-- Every register of `P` holds a legal raw value (40_commands.md R104, 91_not_in_source.md N37). -/
def PatchLegal (p : Patch) : Prop := ∀ r, immLegal r (p.read r) = true

/-- A loaded smoother whose value and target lie in `[lo, hi]` (41_voice_manager.md R129, R130). -/
structure SmootherIn (lo hi : Rat) (s : Smoother) : Prop where
  loaded : s.valid = true
  alpha_pos : 0 < s.alpha
  alpha_le : s.alpha ≤ 1
  cur_ge : lo ≤ s.cur
  cur_le : s.cur ≤ hi
  tgt_ge : lo ≤ s.tgt
  tgt_le : s.tgt ≤ hi

/-- A loaded smoother whose value and target are positive (41_voice_manager.md R125, R127). -/
structure SmootherPos (s : Smoother) : Prop where
  loaded : s.valid = true
  alpha_pos : 0 < s.alpha
  alpha_le : s.alpha ≤ 1
  cur_pos : 0 < s.cur
  tgt_pos : 0 < s.tgt

/-- An envelope record a run can hold at tick count `t` (10_state.md R37, 43_envelope.md R158, R162, R166). -/
def EnvelopeOk (t : Nat) : Envelope → Prop
  | .hold x => 0 ≤ x ∧ x ≤ 1
  | .ad t0 v0 aT dT s => t0 ≤ t ∧ 0 ≤ v0 ∧ v0 ≤ 1 ∧ 0 < aT ∧ 0 < dT ∧ 0 ≤ s ∧ s ≤ 1
  | .rel t0 v0 rT => t0 ≤ t ∧ 0 ≤ v0 ∧ v0 ≤ 1 ∧ 0 < rT

/-- The pitch smoothers of a voice: those of its category are loaded, the others are not (10_state.md R36). -/
def PitchOk (V : Voice) : Prop :=
  match V.cat with
  | .tonal => SmootherPos V.freq ∧ SmootherIn (-32768) 32767 V.det ∧ V.rate.valid = false
  | .noise => SmootherPos V.rate ∧ V.freq.valid = false ∧ V.det.valid = false

/-- The largest amount a route can carry (42_modulation_router.md R142). -/
def amtMax (cfg : Config) : Route → Rat
  | .none => 0
  | .pitch => cfg.pitchModCents
  | .cutoff => cutoffModHz
  | .amp => ampMod
  | .pan => panMod

/-- What holds of an existing voice (10_state.md R36 to R38). -/
structure VoiceOk (t : Nat) (V : Voice) : Prop where
  epoch_pos : 1 ≤ V.epoch
  cat_wf : V.cat = catOf V.wf
  pitch : PitchOk V
  lvl : SmootherIn 0 1 V.lvl
  pan : SmootherIn (-1) 1 V.pan
  lforate : SmootherIn (1 / 1000) (65535 / 1000) V.lforate
  env : EnvelopeOk t V.env
  phase_ge : 0 ≤ V.lfoPh
  phase_lt : V.lfoPh < 1
  route_en : V.route = .none ↔ V.en = false
  amt_ge : 0 ≤ V.amt
  amt_le : V.amt ≤ amtMax Config.build V.route

/-- What holds of a voice that does not exist (10_state.md R47). -/
structure VoiceAbsent (V : Voice) : Prop where
  epoch_zero : V.epoch = 0
  route_none : V.route = .none
  amt_zero : V.amt = 0

/-- What holds of the effects record once an APPLY has acted (10_state.md R39, 44_effects_bus.md R175 to R179,
45_curve_generators.md R205, R206). -/
structure EffectsOk (fx : Effects) : Prop where
  fc : SmootherIn 20 20000 fx.fc
  fq : SmootherIn 0 20 fx.fq
  dtime : SmootherIn 0 ((Config.build.delayMaxMs : Rat) / 1000) fx.dtime
  dfb : SmootherIn 0 (19 / 20) fx.dfb
  dmix : SmootherIn 0 1 fx.dmix
  rmix : SmootherIn 0 1 fx.rmix
  mgain : SmootherIn 0 (65535 / 1000) fx.mgain
  k_ge : 0 ≤ fx.k
  k_le : fx.k ≤ Config.build.wsKMax
  syn_pos : 1 ≤ fx.syn
  impulse : ∃ m, fx.irMs = some m ∧ Config.build.revMinMs ≤ m ∧ m ≤ Config.build.revMaxMs ∧
    fx.irLen = impulseLen Config.build m

/-- What holds of the effects record before any APPLY has acted (10_state.md R47). -/
structure EffectsUnset (fx : Effects) : Prop where
  k_zero : fx.k = 0
  irMs_none : fx.irMs = none
  irLen_zero : fx.irLen = 0
  syn_zero : fx.syn = 0
  fc : fx.fc.valid = false
  fq : fx.fq.valid = false
  dtime : fx.dtime.valid = false
  dfb : fx.dfb.valid = false
  dmix : fx.dmix.valid = false
  rmix : fx.rmix.valid = false
  mgain : fx.mgain.valid = false

/-- The invariant of the block: what every reset establishes and every step keeps. -/
structure BlockInv (s : State) : Prop where
  patch : PatchLegal s.patch
  dl : ∀ c, MemoryOk (dlLen Config.build) (s.dl.get c)
  rh : ∀ c, MemoryOk (rhLen Config.build) (s.rh.get c)
  ir : ∀ c, MemoryOk s.fx.irLen (s.ir.get c)
  irLen_le : s.fx.irLen ≤ rhLen Config.build
  lut : MemoryOk Config.build.wsN s.lut
  limE : 0 ≤ s.limE
  present : ∀ v, (s.voices.get v).present = s.fx.fxv
  uninit : s.run = .uninit → s.fx.fxv = false
  voice : ∀ v, s.fx.fxv = true → VoiceOk s.t (s.voices.get v)
  absent : ∀ v, s.fx.fxv = false → VoiceAbsent (s.voices.get v)
  effects : s.fx.fxv = true → EffectsOk s.fx
  effects_unset : s.fx.fxv = false → EffectsUnset s.fx
  recording : s.cap = .recording → s.tapCreated = true ∧ s.run ≠ .uninit
  idle : s.cap = .idle → s.recBuf = []
  idle_ports : s.run ≠ .running → s.ports.out = ⟨0, 0⟩ ∧ s.ports.outValid = false ∧ s.ports.capFrame = none

/-! ### State that no rule reads (70_reset_and_hazards.md R251) -/

/-- A smoother with the fields no rule reads blanked out (10_state.md R35). -/
def Smoother.seen (s : Smoother) : Smoother := if s.valid then s else Smoother.reset

/-- A voice with the fields no rule reads blanked out (10_state.md R36). -/
def Voice.seen (V : Voice) : Voice :=
  if V.present then
    { V with
      freq := V.freq.seen
      det := V.det.seen
      rate := V.rate.seen
      lvl := V.lvl.seen
      pan := V.pan.seen
      lforate := V.lforate.seen }
  else { Voice.reset with epoch := V.epoch, route := V.route, amt := V.amt }

/-- The effects record with the fields no rule reads blanked out (10_state.md R39). -/
def Effects.seen (fx : Effects) : Effects :=
  { fx with
    ftype := if fx.fxv then fx.ftype else .lowpass
    fc := fx.fc.seen
    fq := fx.fq.seen
    dtime := fx.dtime.seen
    dfb := fx.dfb.seen
    dmix := fx.dmix.seen
    rmix := fx.rmix.seen
    mgain := fx.mgain.seen }

/-- The state with everything blanked out that 70_reset_and_hazards.md R251 calls unspecified and never read. -/
def State.seen (s : State) : State :=
  { s with voices := .each fun v => (s.voices.get v).seen, fx := s.fx.seen }

end Sys2Proof.Machine
end

