-- ==== Sys2Proof/Certificates/Slice0/Obligations.lean ====
section
/-!
DEFINITION. The statements for the provers. The helpers say in the statements' own words what 30_encoding.md R82 calls
an answer, what 41_voice_manager.md R129 calls a retarget, and how commands and ticks follow each other.
-/

open Sys2Proof Sys2Proof.Machine

namespace Sys2Proof.Claims

/-- The state after an answer OK with data `d`: one response word more, code 0 (30_encoding.md R82, R83). -/
def okAnswer (d : Half) (s : State) : State := { s with rq := s.rq ++ [(0 : BitVec 16) ++ d] }

/-- The state after a `STOP` that acts: SUSPENDED, the output and the capture port idle (40_commands.md R108, R110;
60_exceptions.md R245). -/
def stopped (s : State) : State :=
  okAnswer 0 { s with
    run := .suspended, ports := { s.ports with out := ⟨0, 0⟩, outValid := false, capFrame := none } }

/-- The state after an illegal word: the sticky flag and one response, code 1 (30_encoding.md R92). -/
def illegalAnswer (s : State) : State := { s with errIll := true, rq := s.rq ++ [0x10000000] }

/-- The state after a CAPSTOP without a recording: the sticky flag and one response, code 2 (60_exceptions.md R232). -/
def captureAnswer (s : State) : State := { s with errCap := true, rq := s.rq ++ [0x20000000] }

/-- The values `WRP` refuses (40_commands.md R104). -/
def badImm (r : PatchReg) (imm : Half) : Prop :=
  match r with
  | .voice _ .waveform => 4 < imm.toNat
  | .voice _ .enabled => 1 < imm.toNat
  | .voice _ .lfoWave => 3 < imm.toNat
  | .voice _ .lfoTarget => 3 < imm.toNat
  | .effect .ftype => 4 < imm.toNat
  | _ => False

/-- Commands executed one after another; none where one of them stops the machine. -/
def runAll : List Instr → State → Option State
  | [], s => some s
  | i :: is, s =>
    match exec i s with
    | .next t => runAll is t
    | _ => none

/-- Tick pulses one after another, under a configuration. -/
def ticksOn (cfg : Config) : List (Triple Rat) → State → State
  | [], s => s
  | src :: rest, s => ticksOn cfg rest (tickEvent cfg src s)

/-- Tick pulses one after another. -/
def ticks (srcs : List (Triple Rat)) (s : State) : State := ticksOn Config.build srcs s

/-- One item of an event trace (40_commands.md R101). -/
inductive Act where
  | cmd (w : Word)
  | tick (src : Triple Rat)

/-- The state after one item. -/
def Act.run (a : Act) (s : State) : State :=
  match a with
  | .cmd w =>
    match execWord w s with
    | .next t => t
    | _ => s
  | .tick src => tickEvent Config.build src s

/-- The state after a trace. -/
def playState : List Act → State → State
  | [], s => s
  | a :: as, s => playState as (a.run s)

/-- The output frames of a trace: one for each tick step, in order (44_effects_bus.md R198). -/
def playFrames : List Act → State → List Frame
  | [], _ => []
  | a :: as, s =>
    (match a with
      | .tick _ => if s.run = .running then [(a.run s).ports.out] else []
      | .cmd _ => []) ++ playFrames as (a.run s)

/-- Not a capture command (30_encoding.md R84: opcodes 9 and 10). -/
def notCapture (a : Act) : Bool :=
  match a with
  | .cmd w => opField w != 9 && opField w != 10
  | .tick _ => true

/-- Not a word of the CAPSTOP row (30_encoding.md R84). -/
def notCapstop (a : Act) : Bool :=
  match a with
  | .cmd w => w != 0xA0000000
  | .tick _ => true

/-- A trace item without a register write (30_encoding.md R84: opcode 1). -/
def notWrite (a : Act) : Bool :=
  match a with
  | .cmd w => opField w != 1
  | .tick _ => true

/-- A trace item without an APPLY (30_encoding.md R84). -/
def notApply (a : Act) : Bool :=
  match a with
  | .cmd w => w != 0x40000000
  | .tick _ => true

/-- A smoother loaded at `x` (41_voice_manager.md R129, first branch). -/
def loaded (x a : Rat) : Smoother := { cur := x, tgt := x, alpha := a, valid := true }

/-- The three branches of `retarget` (41_voice_manager.md R129). -/
def Retargeted (old new : Smoother) (x a : Rat) : Prop :=
  (old.valid = false → new = loaded x a) ∧
  (old.valid = true → x ≠ old.tgt → new = { cur := old.cur, tgt := x, alpha := a, valid := true }) ∧
  (old.valid = true → x = old.tgt → new = old)

/-- `clamp` as a minimum of a maximum (00_scope.md R11). -/
def within (x lo hi : Rat) : Rat := min (max x lo) hi

/-- The value of `V[v].amt * lfo[v]` where the voice is routed to `r`, else 0 (42_modulation_router.md R149). -/
def modulation (V : Voice) (r : Route) : Rat :=
  if V.route = r then V.amt * Config.build.lfoShape V.lfoWf V.lfoPh else 0

/-- What an existing voice adds to channel `c` of `fin` in a tick with sample `x` (41_voice_manager.md R135, R136). -/
def voiceAdds (V : Voice) (t : Nat) (x : Rat) (c : Chan) : Rat :=
  if V.present = true then
    x * within (V.lvl.cur + modulation V .amp) 0 1 * envVal V.env t *
      (Config.build.panLaw (within (V.pan.cur + modulation V .pan) (-1) 1)).get c
  else 0

/-- What an existing voice adds to the cutoff (42_modulation_router.md R149). -/
def cutoffAdds (V : Voice) : Rat := if V.present = true then modulation V .cutoff else 0

/-- The `cur` of a smoother after `n` ticks (41_voice_manager.md R130). -/
def settled (s : Smoother) (n : Nat) : Rat := s.tgt + (s.cur - s.tgt) * (1 - s.alpha) ^ n

/-- A smoother `n` ticks later, a smoother that is not valid left alone (41_voice_manager.md R130). -/
def AfterTicks (n : Nat) (old new : Smoother) : Prop :=
  (old.valid = true → new = { old with cur := settled old n }) ∧ (old.valid = false → new = old)

/-- Signal state that has heard nothing, with a table of the kind every run holds (44_effects_bus.md R193, R199). -/
def Quiet (cfg : Config) (s : State) : Prop :=
  (∀ c, s.filt.get c = ⟨0, 0, 0, 0⟩) ∧ (∀ c, memWf (s.dl.get c) ∧ ∀ a, memRead (s.dl.get c) a = 0) ∧
    (∀ c, memWf (s.rh.get c) ∧ ∀ a, memRead (s.rh.get c) a = 0) ∧
    ∀ i, i < cfg.wsN → memRead s.lut (cfg.wsN - 1 - i) = -memRead s.lut i

/-- The voice groups of `P`: index and name (10_state.md R22). -/
def voiceGroup : List (BitVec 8 × VoiceReg × (VoicePatch → Half)) :=
  [(0, .waveform, (·.waveform)), (1, .enabled, (·.enabled)), (2, .detune, (·.detune)), (3, .gain, (·.gain)),
   (4, .octave, (·.octave)), (5, .pan, (·.pan)), (6, .envA, (·.envA)), (7, .envD, (·.envD)), (8, .envS, (·.envS)),
   (9, .envR, (·.envR)), (10, .lfoWave, (·.lfoWave)), (11, .lfoRate, (·.lfoRate)), (12, .lfoDepth, (·.lfoDepth)),
   (13, .lfoTarget, (·.lfoTarget))]

/-- The effect groups of `P`: group, index and name (10_state.md R22). -/
def effectGroups : List (BitVec 4 × BitVec 8 × EffectReg × (Patch → Half)) :=
  [(8, 0, .cutoff, (·.cutoff)), (8, 1, .resonance, (·.resonance)), (8, 2, .ftype, (·.ftype)),
   (9, 0, .dtime, (·.dtime)), (9, 1, .feedback, (·.feedback)), (9, 2, .dmix, (·.dmix)),
   (10, 0, .decay, (·.decay)), (10, 1, .rmix, (·.rmix)), (11, 0, .mgain, (·.mgain)), (11, 1, .drive, (·.drive))]

/-- The status registers: index and name (30_encoding.md R88). -/
def statusMap : List (BitVec 8 × StatusReg) :=
  [(0, .status), (1, .envstate), (2, .tick0), (3, .tick1), (4, .tick2), (5, .tick3), (6, .route), (8, .epoch0),
   (9, .epoch1), (10, .epoch2)]

end Sys2Proof.Claims

open Sys2Proof.Claims

/-! ### Register access (40_commands.md) -/

/-- `NOP` changes nothing but the response queue, in every run state (40_commands.md R113). -/
def Obligations.NopRule : Prop :=
  ∀ s : State,
    exec .nop s = .next (okAnswer 0 s) ∧ execWord 0x00000000 s = .next (okAnswer 0 s) ∧
    ∀ low : BitVec 28, low ≠ 0 → execWord ((0 : BitVec 4) ++ low) s = .next (illegalAnswer s)

/-- `WRP` stores its immediate in one register and changes nothing else, or is illegal (40_commands.md R104). -/
def Obligations.WrpRule : Prop :=
  (∀ (s : State) (g : BitVec 4) (i : BitVec 8) (imm : Half),
    (∀ r : PatchReg, r.group = g → r.index = i →
      (¬ badImm r imm →
        exec (.wrp r imm) s = .next (okAnswer 0 { s with patch := s.patch.write r imm }) ∧
        execWord (packWord 1 g i imm) s = .next (okAnswer 0 { s with patch := s.patch.write r imm })) ∧
      (badImm r imm →
        exec (.wrp r imm) s = .next (illegalAnswer s) ∧
        execWord (packWord 1 g i imm) s = .next (illegalAnswer s))) ∧
    ((∀ r : PatchReg, r.group = g → r.index ≠ i) → execWord (packWord 1 g i imm) s = .next (illegalAnswer s))) ∧
  ∀ (p : Patch) (r r' : PatchReg) (x : Half), (p.write r x).read r' = if r' = r then x else p.read r'

/-- `RDP` answers the raw 16 bits last written, 0 after reset; what is written is read back (40_commands.md R105, which
the spec derives from R104). -/
def Obligations.RdpRule : Prop :=
  (∀ (s : State) (g : BitVec 4) (i : BitVec 8) (imm : Half),
    (∀ r : PatchReg, r.group = g → r.index = i → imm = 0 →
      exec (.rdp r) s = .next (okAnswer (s.patch.read r) s) ∧
      execWord (packWord 2 g i imm) s = .next (okAnswer (s.patch.read r) s)) ∧
    (imm ≠ 0 ∨ (∀ r : PatchReg, r.group = g → r.index ≠ i) →
      execWord (packWord 2 g i imm) s = .next (illegalAnswer s))) ∧
  (∀ r : PatchReg, State.reset.patch.read r = 0) ∧
  ∀ (f : PatchReg → Half) (rs : List PatchReg) (s : State), (∀ r ∈ rs, ¬ badImm r (f r)) →
    ∃ t, runAll (rs.map fun r => .wrp r (f r)) s = some t ∧
      ∀ r ∈ rs, exec (.rdp r) t = .next (okAnswer (f r) t)

/-- `RDS` answers the status register and has no side effect, or is illegal (40_commands.md R106). -/
def Obligations.RdsRule : Prop :=
  (∀ (s : State) (g : BitVec 4) (i : BitVec 8) (imm : Half),
    (∀ r : StatusReg, r.index = i → g = 0 → imm = 0 →
      exec (.rds r) s = .next (okAnswer (statusRead s r) s) ∧
      execWord (packWord 3 g i imm) s = .next (okAnswer (statusRead s r) s)) ∧
    (g ≠ 0 ∨ imm ≠ 0 ∨ i.toNat ∉ [0, 1, 2, 3, 4, 5, 6, 8, 9, 10] →
      execWord (packWord 3 g i imm) s = .next (illegalAnswer s))) ∧
  (∀ k, k ∈ [0, 1, 2, 3, 4, 5, 6, 8, 9, 10] ↔ ∃ r : StatusReg, r.index.toNat = k) ∧
  statusRead State.reset .status = 0x0000 ∧ statusRead { State.reset with run := .running } .status = 0x0001

/-! ### Status registers (10_state.md) -/

/-- The fields of `STATUS` (10_state.md R30). -/
def Obligations.StatusFields : Prop :=
  (∀ s : State,
    let w := statusRead s .status
    w.extractLsb' 0 2 = (match s.run with | .uninit => 0 | .running => 1 | .suspended => 2) ∧
    (w.getLsbD 2 = true ↔ s.cap = .recording) ∧ w.getLsbD 3 = s.tapCreated ∧ w.getLsbD 4 = s.fx.fxv ∧
    w.getLsbD 5 = s.errIll ∧ w.getLsbD 6 = s.errCap ∧ w.getLsbD 7 = false ∧
    w.getLsbD 8 = (s.voices.get .v0).present ∧ w.getLsbD 9 = (s.voices.get .v1).present ∧
    w.getLsbD 10 = (s.voices.get .v2).present ∧ w.extractLsb' 11 5 = 0) ∧
  statusRead State.reset .status = 0

/-- The fields of `ENVSTATE` (10_state.md R31). -/
def Obligations.EnvstateFields : Prop :=
  (∀ (s : State) (v : VoiceId),
    let w := statusRead s .envstate
    let V := s.voices.get v
    (V.present = false → w.extractLsb' (4 * v.code.toNat) 3 = 0) ∧
    (V.present = true → w.extractLsb' (4 * v.code.toNat) 3 =
      match envState V.env s.t with
      | .idle => 0
      | .attack => 1
      | .decay => 2
      | .sustain => 3
      | .release => 4) ∧
    w.getLsbD (4 * v.code.toNat + 3) = false ∧ w.extractLsb' 12 4 = 0) ∧
  statusRead State.reset .envstate = 0

/-- `TICK0` to `TICK3` are the four quarters of `t` modulo 2^64, least significant first; `EPOCH0` to `EPOCH2` are the
epochs modulo 2^16; each is one command, and an APPLY without a category change leaves the epochs
(10_state.md R32, R34). -/
def Obligations.CounterFields : Prop :=
  (∀ s : State,
    (statusRead s .tick0).toNat = s.t % 2 ^ 16 ∧
    (statusRead s .tick1).toNat = s.t / 2 ^ 16 % 2 ^ 16 ∧
    (statusRead s .tick2).toNat = s.t / 2 ^ 32 % 2 ^ 16 ∧
    (statusRead s .tick3).toNat = s.t / 2 ^ 48 % 2 ^ 16 ∧
    (statusRead s .tick0).toNat + (statusRead s .tick1).toNat * 2 ^ 16 + (statusRead s .tick2).toNat * 2 ^ 32 +
      (statusRead s .tick3).toNat * 2 ^ 48 = s.t % 2 ^ 64 ∧
    (statusRead s .epoch0).toNat = (s.voices.get .v0).epoch % 2 ^ 16 ∧
    (statusRead s .epoch1).toNat = (s.voices.get .v1).epoch % 2 ^ 16 ∧
    (statusRead s .epoch2).toNat = (s.voices.get .v2).epoch % 2 ^ 16) ∧
  (∀ r ∈ [StatusReg.tick0, .tick1, .tick2, .tick3, .epoch0, .epoch1, .epoch2], statusRead State.reset r = 0 ∧
    ∀ s : State, exec (.rds r) s = .next (okAnswer (statusRead s r) s)) ∧
  ∀ s t : State, exec .apply s = .next t →
    (∀ v, (s.voices.get v).present = true ∧
      (s.voices.get v).cat = catOf (waveformOf (s.patch.read (.voice v .waveform)))) →
    ∀ r ∈ [StatusReg.epoch0, .epoch1, .epoch2], statusRead t r = statusRead s r

/-- The fields of `ROUTE`; the field of a voice applied with `enabled` false reads 0 (10_state.md R33). -/
def Obligations.RouteFields : Prop :=
  (∀ (s : State) (v : VoiceId),
    let w := statusRead s .route
    (w.extractLsb' (4 * v.code.toNat) 3 =
      match (s.voices.get v).route with
      | .none => 0
      | .pitch => 1
      | .cutoff => 2
      | .amp => 3
      | .pan => 4) ∧
    w.getLsbD (4 * v.code.toNat + 3) = false ∧ w.extractLsb' 12 4 = 0) ∧
  statusRead State.reset .route = 0 ∧
  ∀ (s t : State) (v : VoiceId), s.run ≠ .uninit → exec .apply s = .next t →
    s.patch.read (.voice v .enabled) = 0 → (statusRead t .route).extractLsb' (4 * v.code.toNat) 3 = 0

/-! ### Run state (40_commands.md) -/

/-- `START` (40_commands.md R107). -/
def Obligations.StartRule : Prop :=
  (∀ s : State,
    exec .start s = .next (okAnswer 0 { s with run := .running }) ∧
    execWord 0x70000000 s = .next (okAnswer 0 { s with run := .running }) ∧
    ∀ low : BitVec 28, low ≠ 0 → execWord ((7 : BitVec 4) ++ low) s = .next (illegalAnswer s)) ∧
  ∃ t, exec .start State.reset = .next t ∧ statusRead t .status = 0x0001

/-- `STOP`; ticks while suspended leave everything but the ports, and START resumes (40_commands.md R108). That `STOP`
itself, before any tick pulse, idles the output and the capture port and keeps `cap_last` and the source ports is the
model's choice, read from R110 and 60_exceptions.md R245: log 5. -/
def Obligations.StopRule : Prop :=
  ∀ s : State,
    (s.run = .running → exec .stop s = .next (stopped s)) ∧
    (s.run ≠ .running → exec .stop s = .next (okAnswer 0 s)) ∧
    execWord 0x80000000 s = exec .stop s ∧
    (∀ low : BitVec 28, low ≠ 0 → execWord ((8 : BitVec 4) ++ low) s = .next (illegalAnswer s)) ∧
    (s.run = .running → ∀ srcs : List (Triple Rat), ∃ p : Ports,
      exec .start (ticks srcs (stopped s)) =
        .next (okAnswer 0 (okAnswer 0 { s with ports := p })))

/-- The table of which commands act in which run state (40_commands.md R103). -/
def Obligations.RunStateTable : Prop :=
  (∀ s : State, s.run = .uninit →
    (∀ i ∈ [Instr.stop, .apply, .capstart, .attack .v0, .attack .v1, .attack .v2, .release .v0, .release .v1,
      .release .v2], exec i s = .next (okAnswer 0 s)) ∧
    (∃ t, exec .start s = .next t ∧ t.run = .running) ∧
    (s.cap = .idle → exec .capstop s = .next (captureAnswer s))) ∧
  (∀ s : State, s.run = .running →
    exec .start s = .next (okAnswer 0 s) ∧ ∃ t, exec .stop s = .next t ∧ t.run = .suspended) ∧
  (∀ s : State, s.run = .suspended →
    exec .stop s = .next (okAnswer 0 s) ∧ ∃ t, exec .start s = .next t ∧ t.run = .running) ∧
  (∀ (s : State) (r : RunState) (i : Instr), i ∈ [Instr.nop, .capstop] ∨ (∃ q x, i = .wrp q x) ∨ (∃ q, i = .rdp q) →
    ∃ t, exec i s = .next t ∧ exec i { s with run := r } = .next { t with run := r }) ∧
  (∀ (s : State) (q : StatusReg), exec (.rds q) s = .next (okAnswer (statusRead s q) s)) ∧
  ∀ (s : State) (w : Word), (∀ i : Instr, i.wellFormed = true → encode i ≠ w) →
    execWord w s = .next (illegalAnswer s)

/-- Suspended, a command does what it does while running, with the run state as it is (40_commands.md R109). START and
STOP are what the run state is for, and RDS shows it. -/
def Obligations.SuspendedLikeRunning : Prop :=
  (∀ (s : State) (i : Instr), s.run = .running → i ≠ .start → i ≠ .stop → i ≠ .rds .status →
    ∃ t, exec i s = .next t ∧ exec i { s with run := .suspended } = .next { t with run := .suspended }) ∧
  ∀ (s : State) (src : Triple Rat), s.run = .suspended →
    ∃ p : Ports, tickEvent Config.build src s = { s with ports := p } ∧ p.outValid = false

/-! ### APPLY (41_voice_manager.md, 42_modulation_router.md, 44_effects_bus.md, 45_curve_generators.md) -/

/-- What `APPLY` writes: voices, effects record, impulse response, table and the answer, nothing else; nothing at all
before START. It creates every voice, latches the envelope registers and the flag, and leaves the schedule of a voice
that was there (41_voice_manager.md R120, R131). -/
def Obligations.ApplyRule : Prop :=
  ∀ s : State,
    (s.run = .uninit → exec .apply s = .next (okAnswer 0 s)) ∧
    (s.run ≠ .uninit → ∃ vs fx ir lut,
      exec .apply s = .next (okAnswer 0 { s with voices := vs, fx := fx, ir := ir, lut := lut }) ∧
      fx.fxv = true ∧
      ∀ v : VoiceId, (vs.get v).present = true ∧
        (vs.get v).adsr = ⟨s.patch.read (.voice v .envA), s.patch.read (.voice v .envD),
          s.patch.read (.voice v .envS), s.patch.read (.voice v .envR)⟩ ∧
        ((vs.get v).en = true ↔ s.patch.read (.voice v .enabled) = 1) ∧
        ((s.voices.get v).present = true → (vs.get v).env = (s.voices.get v).env)) ∧
    execWord 0x40000000 s = exec .apply s ∧
    ∀ low : BitVec 28, low ≠ 0 → execWord ((4 : BitVec 4) ++ low) s = .next (illegalAnswer s)

/-- A voice that does not exist is created with its envelope held at full level and every smoother loaded at its target
(41_voice_manager.md R122, R125 to R128, 42_modulation_router.md R145). -/
def Obligations.ApplyCreatesVoice : Prop :=
  ∀ (s t : State) (v : VoiceId), s.run ≠ .uninit → exec .apply s = .next t → (s.voices.get v).present = false →
    let p := s.patch.voices.get v
    let V := t.voices.get v
    let a := Config.build.alphaSmooth
    V.present = true ∧ V.epoch = 1 ∧ V.wf = waveformOf p.waveform ∧ V.cat = catOf (waveformOf p.waveform) ∧
    V.env = .hold 1 ∧ (∀ n, envVal V.env n = 1 ∧ envState V.env n = .sustain) ∧ V.lfoPh = 0 ∧
    (V.cat = .tonal → V.freq = loaded (6541 / 100 * 2 ^ p.octave.toInt) a ∧ V.det = loaded p.detune.toInt a ∧
      V.rate.valid = false) ∧
    (V.cat = .noise → V.rate = loaded (2 ^ p.octave.toInt * Config.build.exp2Cents p.detune.toInt) a ∧
      V.freq.valid = false ∧ V.det.valid = false) ∧
    V.lvl = loaded (if p.enabled = 1 then within (p.gain.toNat / 1000) 0 1 else 0) a ∧
    V.pan = loaded (within (p.pan.toInt / 1000) (-1) 1) a ∧
    V.lforate = loaded (max (p.lfoRate.toNat / 1000) (1 / 1000)) a

/-- A change across the tonal/noise boundary replaces the source: `epoch` goes up by one, the pitch smoothers load
afresh at the staged targets, the envelope and the phase stay, level, pan and LFO rate do not start again
(41_voice_manager.md R123, R129; the waveform is R124's, the targets are those of R125, R126, R127). -/
def Obligations.ApplyReplacesSource : Prop :=
  ∀ (s t : State) (v : VoiceId), s.run ≠ .uninit → exec .apply s = .next t →
    (s.voices.get v).present = true →
    (s.voices.get v).cat ≠ catOf (waveformOf (s.patch.voices.get v).waveform) →
    let p := s.patch.voices.get v
    let V := s.voices.get v
    let W := t.voices.get v
    let a := Config.build.alphaSmooth
    W.present = true ∧ W.cat = catOf (waveformOf p.waveform) ∧ W.wf = waveformOf p.waveform ∧
    W.epoch = V.epoch + 1 ∧ W.env = V.env ∧ W.lfoPh = V.lfoPh ∧
    (W.cat = .tonal → W.freq = loaded (6541 / 100 * 2 ^ p.octave.toInt) a ∧ W.det = loaded p.detune.toInt a ∧
      W.rate.valid = false) ∧
    (W.cat = .noise → W.rate = loaded (2 ^ p.octave.toInt * Config.build.exp2Cents p.detune.toInt) a ∧
      W.freq.valid = false ∧ W.det.valid = false) ∧
    (V.lvl.valid = true → W.lvl.cur = V.lvl.cur) ∧ (V.pan.valid = true → W.pan.cur = V.pan.cur) ∧
    (V.lforate.valid = true → W.lforate.cur = V.lforate.cur)

/-- The codes of `WAVEFORM` and their categories; inside a category the source stays: same `epoch`, the waveform stepped
(41_voice_manager.md R124, R132; 10_state.md R23). -/
def Obligations.ApplyKeepsIdentity : Prop :=
  ∀ (s t : State) (v : VoiceId), s.run ≠ .uninit → exec .apply s = .next t →
    let w := s.patch.read (.voice v .waveform)
    ((t.voices.get v).wf = waveformOf w ∧ (t.voices.get v).cat = catOf (waveformOf w)) ∧
    (w = 0 → (t.voices.get v).wf = .sine ∧ (t.voices.get v).cat = .tonal) ∧
    (w = 1 → (t.voices.get v).wf = .triangle ∧ (t.voices.get v).cat = .tonal) ∧
    (w = 2 → (t.voices.get v).wf = .sawtooth ∧ (t.voices.get v).cat = .tonal) ∧
    (w = 3 → (t.voices.get v).wf = .square ∧ (t.voices.get v).cat = .tonal) ∧
    (w = 4 → (t.voices.get v).wf = .noise ∧ (t.voices.get v).cat = .noise) ∧
    ((s.voices.get v).present = true → ((s.voices.get v).cat = .noise ↔ w = 4) →
      (t.voices.get v).epoch = (s.voices.get v).epoch ∧ (t.voices.get v).cat = (s.voices.get v).cat ∧
      (t.voices.get v).env = (s.voices.get v).env ∧ (t.voices.get v).lfoPh = (s.voices.get v).lfoPh)

/-- Pitch targets of a voice whose source stays (41_voice_manager.md R125, R126, R127). -/
def Obligations.ApplyPitchTargets : Prop :=
  ∀ (s t : State) (v : VoiceId), s.run ≠ .uninit → exec .apply s = .next t →
    (s.voices.get v).present = true →
    (s.voices.get v).cat = catOf (waveformOf (s.patch.voices.get v).waveform) →
    let p := s.patch.voices.get v
    let V := s.voices.get v
    let W := t.voices.get v
    let a := Config.build.alphaSmooth
    (V.cat = .tonal → Retargeted V.freq W.freq (6541 / 100 * 2 ^ p.octave.toInt) a ∧
      Retargeted V.det W.det p.detune.toInt a ∧ W.rate = V.rate) ∧
    (V.cat = .noise → Retargeted V.rate W.rate (2 ^ p.octave.toInt * Config.build.exp2Cents p.detune.toInt) a ∧
      W.freq = V.freq ∧ W.det = V.det)

/-- Pan and level; the level moves fast when `enabled` toggles (41_voice_manager.md R128). -/
def Obligations.ApplyPanAndLevel : Prop :=
  ∀ (s t : State) (v : VoiceId), s.run ≠ .uninit → exec .apply s = .next t →
    let p := s.patch.voices.get v
    let V := s.voices.get v
    let W := t.voices.get v
    let target : Rat := if p.enabled = 1 then within (p.gain.toNat / 1000) 0 1 else 0
    (V.present = true →
      Retargeted V.pan W.pan (within (p.pan.toInt / 1000) (-1) 1) Config.build.alphaSmooth ∧
      Retargeted V.lvl W.lvl target
        (if decide (p.enabled = 1) = V.en then Config.build.alphaSmooth else Config.build.alphaFast)) ∧
    (V.present = false →
      W.pan = loaded (within (p.pan.toInt / 1000) (-1) 1) Config.build.alphaSmooth ∧
      W.lvl = loaded target Config.build.alphaSmooth)

/-- LFO rate, waveform, disconnect and connect (42_modulation_router.md R141 to R145). -/
def Obligations.ApplyLfo : Prop :=
  ∀ (s t : State) (v : VoiceId), s.run ≠ .uninit → exec .apply s = .next t →
    let p := s.patch.voices.get v
    let V := s.voices.get v
    let W := t.voices.get v
    let depth := within (p.lfoDepth.toNat / 1000) 0 1
    (p.enabled ≠ 1 → W.route = .none ∧ W.amt = 0) ∧
    (p.enabled = 1 →
      (p.lfoTarget = 0 → W.route = .pitch ∧ W.amt = depth * Config.build.pitchModCents) ∧
      (p.lfoTarget = 1 → W.route = .cutoff ∧ W.amt = depth * 5000) ∧
      (p.lfoTarget = 2 → W.route = .amp ∧ W.amt = depth * (1 / 2)) ∧
      (p.lfoTarget = 3 → W.route = .pan ∧ W.amt = depth * 1)) ∧
    (p.lfoWave = 0 → W.lfoWf = .sine) ∧ (p.lfoWave = 1 → W.lfoWf = .triangle) ∧
    (p.lfoWave = 2 → W.lfoWf = .sawtooth) ∧ (p.lfoWave = 3 → W.lfoWf = .square) ∧
    (V.present = true → V.lforate.valid = true →
      Retargeted V.lforate W.lforate (max (p.lfoRate.toNat / 1000) (1 / 1000)) Config.build.alphaSmooth) ∧
    (V.present = false ∨ V.lforate.valid = false →
      W.lforate = loaded (max (p.lfoRate.toNat / 1000) (1 / 1000)) Config.build.alphaSmooth)

/-- Effect parameters: each clamped register value becomes the target of its smoother, the filter type is stepped and
the filter state stays; no register content moves the loop gain outside [0, 19/20], nor does a tick
(44_effects_bus.md R175 to R179). -/
def Obligations.ApplyEffectTargets : Prop :=
  (∀ s t : State, s.run ≠ .uninit → exec .apply s = .next t →
    let p := s.patch
    let a := Config.build.alphaSmooth
    Retargeted s.fx.fc t.fx.fc (within p.cutoff.toNat 20 20000) a ∧
    Retargeted s.fx.fq t.fx.fq (within (p.resonance.toNat / 1000) 0 20) a ∧
    Retargeted s.fx.dtime t.fx.dtime (within p.dtime.toNat 0 Config.build.delayMaxMs / 1000) a ∧
    Retargeted s.fx.dfb t.fx.dfb (within (p.feedback.toNat / 1000) 0 (19 / 20)) a ∧
    Retargeted s.fx.dmix t.fx.dmix (within (p.dmix.toNat / 1000) 0 1) a ∧
    Retargeted s.fx.rmix t.fx.rmix (within (p.rmix.toNat / 1000) 0 1) a ∧
    Retargeted s.fx.mgain t.fx.mgain (p.mgain.toNat / 1000) a ∧
    (p.ftype = 0 → t.fx.ftype = .lowpass) ∧ (p.ftype = 1 → t.fx.ftype = .highpass) ∧
    (p.ftype = 2 → t.fx.ftype = .bandpass) ∧ (p.ftype = 3 → t.fx.ftype = .notch) ∧
    (p.ftype = 4 → t.fx.ftype = .peaking) ∧ t.filt = s.filt ∧
    (s.fx.dfb.valid = false ∨ SmootherIn 0 (19 / 20) s.fx.dfb → SmootherIn 0 (19 / 20) t.fx.dfb)) ∧
  ∀ (s : State) (src : Triple Rat), SmootherIn 0 (19 / 20) s.fx.dfb →
    SmootherIn 0 (19 / 20) (tickEvent Config.build src s).fx.dfb

/-- When an impulse response is synthesised, its length and its samples; otherwise it stays
(45_curve_generators.md R205, R206, R207; the draw is also indexed by the session, log 2). -/
def Obligations.ApplyImpulse : Prop :=
  ∀ s t : State, s.run ≠ .uninit → exec .apply s = .next t →
    let cfg := Config.build
    let dms := min (max s.patch.decay.toNat cfg.revMinMs) cfg.revMaxMs
    let L := max 1 (dms * cfg.fs / 1000)
    (1 ≤ L ∧ L ≤ rhLen cfg) ∧
    (s.fx.irMs = some dms → t.ir = s.ir ∧ t.fx.irLen = s.fx.irLen ∧ t.fx.syn = s.fx.syn ∧ t.fx.irMs = s.fx.irMs) ∧
    (s.fx.irMs ≠ some dms →
      t.fx.irMs = some dms ∧ t.fx.irLen = L ∧ t.fx.syn = s.fx.syn + 1 ∧
      ∀ (c : Chan) (i : Nat), i < L →
        memRead (t.ir.get c) i = cfg.q (cfg.urand s.session (s.fx.syn + 1) c i * (1 - i / L) ^ 2))

/-- The waveshaper's intensity and table (45_curve_generators.md R209, R210, R211). -/
def Obligations.ApplyDriveTable : Prop :=
  ∀ s t : State, s.run ≠ .uninit → exec .apply s = .next t →
    let cfg := Config.build
    let x (i : Nat) : Rat := -1 + 2 * i / ((cfg.wsN : Rat) - 1)
    t.fx.k = within (s.patch.drive.toNat / 1000) 0 1 * cfg.wsKMax ∧
    (t.fx.k = 0 ↔ s.patch.drive = 0) ∧
    ∀ i, i < cfg.wsN →
      (s.patch.drive = 0 → memRead t.lut i = cfg.q (x i)) ∧
      (s.patch.drive ≠ 0 →
        memRead t.lut i = cfg.q ((3 + t.fx.k) * x i * (cfg.piQ / 9) / (cfg.piQ + t.fx.k * |x i|)))

/-- Idempotence: with no register write in between, a second APPLY changes nothing but the response queue, whatever
ticks came between the two (41_voice_manager.md R132). -/
def Obligations.ApplyIdempotent : Prop :=
  ∀ (s t : State) (srcs : List (Triple Rat)), s.run ≠ .uninit → exec .apply s = .next t →
    exec .apply (ticks srcs t) = .next (okAnswer 0 (ticks srcs t))

/-! ### ATTACK, RELEASE and the envelope (43_envelope.md) -/

/-- `ATTACK v`: a new schedule from the present value, with the latched times, or nothing (43_envelope.md R155 to R158,
R160, R161). -/
def Obligations.AttackRule : Prop :=
  ∀ (s : State) (v : VoiceId),
    let V := s.voices.get v
    let ramp (r : Half) : Rat := (max r.toNat Config.build.tFloorMs : Nat) * Config.build.fs / 1000
    (s.run ≠ .uninit → V.present = true →
      exec (.attack v) s = .next (okAnswer 0 { s with
        voices := s.voices.set v { V with
          env := .ad s.t (envVal V.env s.t) (ramp V.adsr.a) (ramp V.adsr.d) (within (V.adsr.s.toNat / 1000) 0 1) } })) ∧
    (s.run = .uninit ∨ V.present = false → exec (.attack v) s = .next (okAnswer 0 s)) ∧
    execWord ((5 : BitVec 4) ++ v.code ++ (0 : BitVec 24)) s = exec (.attack v) s ∧
    ∀ (g : BitVec 4) (low : BitVec 24), 2 < g.toNat ∨ low ≠ 0 →
      execWord ((5 : BitVec 4) ++ g ++ low) s = .next (illegalAnswer s)

/-- `RELEASE v`: a new schedule from the present value down to 0, or nothing (43_envelope.md R156 to R161). -/
def Obligations.ReleaseRule : Prop :=
  ∀ (s : State) (v : VoiceId),
    let V := s.voices.get v
    (s.run ≠ .uninit → V.present = true →
      exec (.release v) s = .next (okAnswer 0 { s with
        voices := s.voices.set v { V with
          env := .rel s.t (envVal V.env s.t)
            ((max V.adsr.r.toNat Config.build.tFloorMs : Nat) * Config.build.fs / 1000) } })) ∧
    (s.run = .uninit ∨ V.present = false → exec (.release v) s = .next (okAnswer 0 s)) ∧
    execWord ((6 : BitVec 4) ++ v.code ++ (0 : BitVec 24)) s = exec (.release v) s ∧
    ∀ (g : BitVec 4) (low : BitVec 24), 2 < g.toNat ∨ low ≠ 0 →
      execWord ((6 : BitVec 4) ++ g ++ low) s = .next (illegalAnswer s)

/-- A trigger does not move the envelope's value, and between two ticks the value moves by no more than the shortest
ramp allows (43_envelope.md R161, R165, which the spec derives from R161 and R162). The value is the unquantised one:
log 10. -/
def Obligations.TriggerContinuity : Prop :=
  (∀ (s t : State) (i : Instr) (v w : VoiceId), i = .attack v ∨ i = .release v → exec i s = .next t →
    t.t = s.t ∧ envVal (t.voices.get w).env t.t = envVal (s.voices.get w).env s.t) ∧
  (∀ (n t0 tau : Nat) (v0 aT dT x : Rat), EnvelopeOk n (.ad t0 v0 aT dT x) → t0 ≤ tau →
    |envVal (.ad t0 v0 aT dT x) (tau + 1) - envVal (.ad t0 v0 aT dT x) tau| ≤ 1 / min aT dT) ∧
  (∀ (n t0 tau : Nat) (v0 rT : Rat), EnvelopeOk n (.rel t0 v0 rT) → t0 ≤ tau →
    |envVal (.rel t0 v0 rT) (tau + 1) - envVal (.rel t0 v0 rT) tau| ≤ 1 / rT) ∧
  (∀ (cfg : Config) (r : Half), 40000 < cfg.fs → (40 : Rat) < (max r.toNat cfg.tFloorMs : Nat) * cfg.fs / 1000)

/-- The envelope of a voice `n` ticks after a trigger: the ramps of 43_envelope.md R162 and the states of R163. That the
value is not quantised is the model's choice between two passages of the spec: log 10. -/
def Obligations.EnvelopeTimeline : Prop :=
  ∀ (s : State) (v : VoiceId) (srcs : List (Triple Rat)), s.run = .running → (s.voices.get v).present = true →
    let n : Rat := srcs.length
    let v0 := envVal (s.voices.get v).env s.t
    let ramp (r : Half) : Rat := (max r.toNat Config.build.tFloorMs : Nat) * Config.build.fs / 1000
    let A := ramp (s.voices.get v).adsr.a
    let D := ramp (s.voices.get v).adsr.d
    let R := ramp (s.voices.get v).adsr.r
    let S := within ((s.voices.get v).adsr.s.toNat / 1000) 0 1
    (∀ t, exec (.attack v) s = .next t →
      let u := ticks srcs t
      let E := (u.voices.get v).env
      (n < A → envVal E u.t = v0 + (1 - v0) * n / A ∧ envState E u.t = .attack) ∧
      (A ≤ n → n < A + D → envVal E u.t = 1 + (S - 1) * (n - A) / D ∧ envState E u.t = .decay) ∧
      (A + D ≤ n → envVal E u.t = S ∧ envState E u.t = .sustain)) ∧
    ∀ t, exec (.release v) s = .next t →
      let u := ticks srcs t
      let E := (u.voices.get v).env
      (n < R → envVal E u.t = v0 * (1 - n / R) ∧ envState E u.t = .release) ∧
      (R ≤ n → envVal E u.t = 0 ∧ envState E u.t = .idle)

/-- The envelope stays in [0, 1]; attack ramps never fall, decay and release ramps never rise
(43_envelope.md R166). The value is the unquantised one: log 10. -/
def Obligations.EnvelopeRange : Prop :=
  (∀ (e : Envelope) (t tau : Nat), EnvelopeOk t e → t ≤ tau → 0 ≤ envVal e tau ∧ envVal e tau ≤ 1) ∧
  (∀ (t0 tau n : Nat) (v0 aT dT x : Rat), EnvelopeOk n (.ad t0 v0 aT dT x) → t0 ≤ tau →
    (((tau + 1 : Nat) : Rat) - t0 ≤ aT →
      envVal (.ad t0 v0 aT dT x) tau ≤ envVal (.ad t0 v0 aT dT x) (tau + 1)) ∧
    (aT ≤ (tau : Rat) - t0 → envVal (.ad t0 v0 aT dT x) (tau + 1) ≤ envVal (.ad t0 v0 aT dT x) tau)) ∧
  ∀ (t0 tau n : Nat) (v0 rT : Rat), EnvelopeOk n (.rel t0 v0 rT) → t0 ≤ tau →
    envVal (.rel t0 v0 rT) (tau + 1) ≤ envVal (.rel t0 v0 rT) tau

/-! ### Capture (46_capture_sink.md) -/

/-- `CAPSTART` (46_capture_sink.md R222). -/
def Obligations.CapstartRule : Prop :=
  ∀ s : State,
    (s.run = .uninit ∨ s.cap = .recording → exec .capstart s = .next (okAnswer 0 s)) ∧
    (s.run ≠ .uninit → s.cap = .idle →
      exec .capstart s = .next (okAnswer 0 { s with tapCreated := true, recBuf := [], cap := .recording })) ∧
    execWord 0x90000000 s = exec .capstart s ∧
    ∀ low : BitVec 28, low ≠ 0 → execWord ((9 : BitVec 4) ++ low) s = .next (illegalAnswer s)

/-- `CAPSTOP` (46_capture_sink.md R223); `cap_last` is shown with it (R226). The recording goes to `delivered`, the
model's own field (log 5, log 6). -/
def Obligations.CapstopRule : Prop :=
  ∀ s : State,
    (s.cap = .idle → exec .capstop s = .next (captureAnswer s)) ∧
    (s.cap = .recording → exec .capstop s = .next (okAnswer 0 { s with
      delivered := s.delivered ++ [s.recBuf], recBuf := [], cap := .idle, ports := { s.ports with capLast := true } })) ∧
    execWord 0xA0000000 s = exec .capstop s ∧
    ∀ low : BitVec 28, low ≠ 0 → execWord ((10 : BitVec 4) ++ low) s = .next (illegalAnswer s)

/-- A recording is the sequence of all output frames of the tick steps between the CAPSTART that acts and the CAPSTOP,
in order, none missing, none repeated (46_capture_sink.md R224, R225). The recording is read off `delivered` and the
frames off `ports`, the model's own fields (log 5, log 6). -/
def Obligations.RecordingHoldsTickFrames : Prop :=
  ∀ (s t u : State) (acts : List Act), s.run ≠ .uninit → s.cap = .idle → exec .capstart s = .next t →
    (∀ a ∈ acts, notCapstop a = true) → exec .capstop (playState acts t) = .next u →
    u.delivered = s.delivered ++ [playFrames acts t]

/-- The audio output is the same with and without the capture commands of a trace (46_capture_sink.md R227). -/
def Obligations.CaptureDoesNotChangeAudio : Prop :=
  ∀ (s : State) (acts : List Act), playFrames (acts.filter notCapture) s = playFrames acts s

/-- The audio output is the same with and without the register writes of a trace that holds no APPLY
(20_memory.md R71, 70_reset_and_hazards.md R255). -/
def Obligations.WritesAreSilentUntilApply : Prop :=
  ∀ (s : State) (acts : List Act), (∀ a ∈ acts, notApply a = true) →
    playFrames (acts.filter notWrite) s = playFrames acts s

/-! ### Decoding, responses, errors (30_encoding.md, 60_exceptions.md) -/

/-- The decoder is total: a word that encodes an instruction is that instruction, every other word is illegal, sets the
flag and changes nothing else, in every run state (30_encoding.md R92). -/
def Obligations.IllegalWordRule : Prop :=
  ∀ (w : Word) (s : State),
    (∃ i : Instr, i.wellFormed = true ∧ encode i = w ∧ w &&& rowMask i = rowMatch i ∧ execWord w s = exec i s) ∨
    ((∀ i : Instr, i.wellFormed = true → encode i ≠ w) ∧ execWord w s = .next (illegalAnswer s))

/-- Decoding and encoding agree, in both directions, and over a byte-wide transport, which carries words and register
values least significant byte first and frames left sample first (30_encoding.md R80, R81, R84 to R90;
20_memory.md R66). -/
def Obligations.DecodeEncode : Prop :=
  (∀ i : Instr, i.wellFormed = true → decode (encode i) = .ok i) ∧
  (∀ (w : Word) (i : Instr), decode w = .ok i → i.wellFormed = true ∧ encode i = w) ∧
  (∀ (w : Word) (rest : List Byte), decodeBytes (wordBytes w ++ rest) = some (decode w, rest)) ∧
  (∀ (w : Word) (rest : List Byte), readWord (wordBytes w ++ rest) = some (w, rest)) ∧
  (∀ (h : Half) (rest : List Byte), readHalf (halfBytes h ++ rest) = some (h, rest)) ∧
  (∀ w : Word, (wordBytes w).map BitVec.toNat =
    [w.toNat % 256, w.toNat / 256 % 256, w.toNat / 65536 % 256, w.toNat / 16777216]) ∧
  (∀ h : Half, (halfBytes h).map BitVec.toNat = [h.toNat % 256, h.toNat / 256]) ∧
  ∀ f : Frame, frameSamples f = [f.get .left, f.get .right]

/-- The register map and the status map, number by number, and words the spec writes out: each decodes to the command it
stands for, and each register of `P` holds the value its name says (10_state.md R22; 30_encoding.md R87, R88, R94). -/
def Obligations.DecodeSpecWords : Prop :=
  (∀ g ∈ [((0 : BitVec 4), VoiceId.v0), (1, .v1), (2, .v2)],
    decode ((5 : BitVec 4) ++ g.1 ++ (0 : BitVec 24)) = .ok (.attack g.2) ∧
    decode ((6 : BitVec 4) ++ g.1 ++ (0 : BitVec 24)) = .ok (.release g.2) ∧
    ∀ q ∈ voiceGroup,
      (PatchReg.voice g.2 q.2.1).group = g.1 ∧ (PatchReg.voice g.2 q.2.1).index = q.1 ∧
      decode ((1 : BitVec 4) ++ g.1 ++ q.1 ++ (1 : Half)) = .ok (.wrp (.voice g.2 q.2.1) 1) ∧
      decode ((2 : BitVec 4) ++ g.1 ++ q.1 ++ (0 : Half)) = .ok (.rdp (.voice g.2 q.2.1)) ∧
      ∀ p : Patch, p.read (.voice g.2 q.2.1) = q.2.2 (p.voices.get g.2)) ∧
  (∀ q ∈ effectGroups,
    (PatchReg.effect q.2.2.1).group = q.1 ∧ (PatchReg.effect q.2.2.1).index = q.2.1 ∧
    decode ((1 : BitVec 4) ++ q.1 ++ q.2.1 ++ (1 : Half)) = .ok (.wrp (.effect q.2.2.1) 1) ∧
    decode ((2 : BitVec 4) ++ q.1 ++ q.2.1 ++ (0 : Half)) = .ok (.rdp (.effect q.2.2.1)) ∧
    ∀ p : Patch, p.read (.effect q.2.2.1) = q.2.2.2 p) ∧
  (∀ q ∈ statusMap, q.2.index = q.1 ∧
    decode ((3 : BitVec 4) ++ (0 : BitVec 4) ++ q.1 ++ (0 : Half)) = .ok (.rds q.2)) ∧
  decode 0x1002FB50 = .ok (.wrp (.voice .v0 .detune) (-1200)) ∧
  decode 0x18004E20 = .ok (.wrp (.effect .cutoff) 20000) ∧
  decode 0x29010000 = .ok (.rdp (.effect .feedback)) ∧
  decode 0x30060000 = .ok (.rds .route) ∧
  decode 0x52000000 = .ok (.attack .v2) ∧
  decode 0x40000000 = .ok .apply

/-- Every command is answered by exactly one response word, in arrival order; its fields are the code, twelve zero bits
and the data, which is 0 unless a register was read (30_encoding.md R82). -/
def Obligations.ResponseRule : Prop :=
  (∀ (s : State) (w : Word) (ws : List Word), s.cq = w :: ws →
    ∃ (t : State) (r : Word), controlStep s = .next t ∧ t.cq = ws ∧ t.rq = s.rq ++ [r] ∧
      r.extractLsb' 16 12 = 0 ∧ (r.extractLsb' 28 4).toNat ≤ 2 ∧
      (∀ q, w = encode (.rdp q) → r = (0 : BitVec 16) ++ s.patch.read q) ∧
      (∀ q, w = encode (.rds q) → r = (0 : BitVec 16) ++ statusRead s q) ∧
      ((∀ q, w ≠ encode (.rdp q)) → (∀ q, w ≠ encode (.rds q)) → r.extractLsb' 0 16 = 0)) ∧
  ∀ (s : State) (r : Word) (rs : List Word), s.rq = r :: rs → runEvent .take s = .next { s with rq := rs }

/-- An error response leaves everything but the error flags and the queues (60_exceptions.md R234, which the spec
derives from R231 and R232). -/
def Obligations.ErrorLeavesEngine : Prop :=
  ∀ (s t : State) (w r : Word), execWord w s = .next t → t.rq = s.rq ++ [r] → r.extractLsb' 28 4 ≠ 0 →
    ∃ a b : Bool, t = { s with errIll := a, errCap := b, rq := s.rq ++ [r] } ∧
      (a = true ∨ a = s.errIll) ∧ (b = true ∨ b = s.errCap)

/-- Who writes what: the staged bank is written by a legal WRP alone, the run state by START and STOP, the tick counter
by a tick step, the sticky flags are never cleared; a reset apart (10_state.md R21, R27, R28, R29;
60_exceptions.md R233). -/
def Obligations.WhoWritesWhat : Prop :=
  ∀ (s t : State) (e : HostEvent), e ≠ .rst → runEvent e s = .next t →
    (t.patch ≠ s.patch → e = .command ∧ ∃ r x ws, immLegal r x = true ∧ s.cq = encode (.wrp r x) :: ws ∧
      t.patch = s.patch.write r x) ∧
    (t.run ≠ s.run → e = .command ∧ ∃ ws, s.cq = 0x70000000 :: ws ∧ t.run = .running ∨
      s.cq = 0x80000000 :: ws ∧ s.run = .running ∧ t.run = .suspended) ∧
    (t.t ≠ s.t → (∃ src, e = .tick src) ∧ s.run = .running ∧ t.t = s.t + 1) ∧
    (s.errIll = true → t.errIll = true) ∧ (s.errCap = true → t.errCap = true)

/-! ### Steps and events (40_commands.md R101, 20_memory.md R70) -/

/-- A step runs the decoded instruction: with a word at the head of `CQ` and the control agent's turn, or no event left,
`step` is `exec` of the instruction on the state without that word and turn; an illegal word gives the illegal answer.
The schedule `pending` and the placement `withFetchWord` are the model's choice: log 3, log 4. -/
def Obligations.StepRunsDecoded : Prop :=
  (∀ (s : State) (w : Word) (ws : List Word) (es : List HostEvent) (i : Instr), s.cq = w :: ws →
    s.pending = .command :: es → decode w = .ok i → step s = exec i { s with cq := ws, pending := es }) ∧
  (∀ (s : State) (w : Word) (ws : List Word) (i : Instr), s.cq = w :: ws → s.pending = [] → decode w = .ok i →
    step s = exec i { s with cq := ws }) ∧
  (∀ (s : State) (w : Word) (ws : List Word) (es : List HostEvent) (x : IllegalWord), s.cq = w :: ws →
    s.pending = .command :: es → decode w = .error x →
    step s = .next (illegalAnswer { s with cq := ws, pending := es })) ∧
  (∀ (s : State) (w : Word) (ws : List Word) (x : IllegalWord), s.cq = w :: ws → s.pending = [] →
    decode w = .error x → step s = .next (illegalAnswer { s with cq := ws })) ∧
  ∀ (s : State) (nbits w : Nat) (i : Instr), decodeTableWord nbits w = some i →
    step (s.withFetchWord nbits w) = exec i s

/-- What each event of the host's trace does (40_commands.md R100, R101; 10_state.md R46). -/
def Obligations.HostEvents : Prop :=
  ∀ (s : State) (es : List HostEvent),
    (∀ w, s.pending = .push w :: es → step s = .next { s with pending := es, cq := s.cq ++ [w] }) ∧
    (∀ r rs, s.pending = .take :: es → s.rq = r :: rs → step s = .next { s with pending := es, rq := rs }) ∧
    (∀ src, s.pending = .tick src :: es →
      step s = .next (tickEvent Config.build src { s with pending := es })) ∧
    (s.pending = .rst :: es → step s = .next
      { State.reset with pending := es, delivered := s.delivered, session := s.session + 1 }) ∧
    (s.pending = [] → s.cq = [] → step s = .next s)

/-! ### The tick step (40_commands.md R110 to R112) -/

/-- A tick pulse does nothing while not RUNNING, and always completes one tick step while RUNNING
(40_commands.md R110). -/
def Obligations.TickEnabling : Prop :=
  ∀ (s : State) (src : Triple Rat),
    (s.run ≠ .running → ∃ p : Ports, tickEvent Config.build src s = { s with ports := p } ∧
      p.out = ⟨0, 0⟩ ∧ p.outValid = false ∧ p.capFrame = none) ∧
    (s.run = .running → (tickEvent Config.build src s).t = s.t + 1 ∧
      (tickEvent Config.build src s).ports.outValid = true) ∧
    runEvent (.tick src) s = .next (tickEvent Config.build src s)

/-- The tick step before the first APPLY (40_commands.md R112, which the spec derives from R111). -/
def Obligations.TickSilent : Prop :=
  ∀ (s : State) (src : Triple Rat), s.run = .running → s.fx.fxv = false → ∃ p : Ports,
    tickEvent Config.build src s = { s with
      ports := p, t := s.t + 1, recBuf := if s.cap = .recording then s.recBuf ++ [⟨0, 0⟩] else s.recBuf } ∧
    p.out = ⟨0, 0⟩ ∧ p.outValid = true ∧ p.capFrame = if s.cap = .recording then some ⟨0, 0⟩ else none

/-- The source controls of the tick, and `fin`, the sum of the existing voices (41_voice_manager.md R133 to R137;
42_modulation_router.md R148 to R150). -/
def Obligations.TickVoices : Prop :=
  ∀ (s : State) (src : Triple Rat), s.run = .running → s.fx.fxv = true →
    (∀ v : VoiceId,
      let V := s.voices.get v
      let shown := (tickEvent Config.build src s).ports.src.get v
      (V.present = false → shown = none) ∧
      (V.present = true → V.cat = .tonal → shown = some
        { cat := .tonal
          wf := match V.wf with
            | .sine => 0
            | .triangle => 1
            | .sawtooth => 2
            | .square => 3
            | .noise => 4
          freq := V.freq.cur * Config.build.exp2Cents (V.det.cur + modulation V .pitch)
          rate := 0, epoch := V.epoch }) ∧
      (V.present = true → V.cat = .noise → shown = some
        { cat := .noise, wf := 4, freq := 0
          rate := V.rate.cur * Config.build.exp2Cents (modulation V .pitch), epoch := V.epoch })) ∧
    ∀ c : Chan, finSig Config.build src s c =
      voiceAdds (s.voices.get .v0) s.t (src.get .v0) c + voiceAdds (s.voices.get .v1) s.t (src.get .v1) c +
        voiceAdds (s.voices.get .v2) s.t (src.get .v2) c

/-- The filter: effective cutoff, one second-order section per channel, its state (44_effects_bus.md R180, R181). -/
def Obligations.TickFilter : Prop :=
  ∀ (s : State) (src : Triple Rat) (c : Chan), s.run = .running → s.fx.fxv = true →
    let cfg := Config.build
    let cmod := cutoffAdds (s.voices.get .v0) + cutoffAdds (s.voices.get .v1) + cutoffAdds (s.voices.get .v2)
    let k := cfg.biquadCoef s.fx.ftype (within (s.fx.fc.cur + cmod) 20 20000) s.fx.fq.cur cfg.fs
    let f := s.filt.get c
    let x := finSig cfg src s c
    let y := foutSig cfg src s c
    y = k.b0 * x + k.b1 * f.fx1 + k.b2 * f.fx2 - k.a1 * f.fy1 - k.a2 * f.fy2 ∧
    (tickEvent cfg src s).filt.get c = { fx1 := cfg.q x, fx2 := cfg.q f.fx1, fy1 := cfg.q y, fy2 := cfg.q f.fy1 }

/-- The delay line: what a tick reads from it, the one cell it writes, and every other cell as before
(20_memory.md R61; 44_effects_bus.md R185, R186). For a line of one cell the formula of R185 is followed: log 22. -/
def Obligations.TickDelayLine : Prop :=
  ∀ (s : State) (src : Triple Rat) (c : Chan), s.run = .running → s.fx.fxv = true → memWf (s.dl.get c) →
    let cfg := Config.build
    let D := max 1 (s.fx.dtime.cur * cfg.fs).floor.toNat
    let cell := s.t % dlLen cfg
    let after := (tickEvent cfg src s).dl.get c
    dlLen cfg = cfg.delayMaxMs * cfg.fs / 1000 + 1 ∧
    doutSig cfg s c = memRead (s.dl.get c) (ringIndex s.t D (dlLen cfg)) ∧
    (ringIndex s.t D (dlLen cfg) : Int) = ((s.t : Int) - D) % (dlLen cfg : Int) ∧
    memRead after cell = cfg.q (foutSig cfg src s c + s.fx.dfb.cur * doutSig cfg s c) ∧
    ∀ a, a ≠ cell → memRead after a = memRead (s.dl.get c) a

/-- The reverb: the history is written first, then convolved with the impulse response
(20_memory.md R62; 44_effects_bus.md R188). -/
def Obligations.TickReverb : Prop :=
  ∀ (s : State) (src : Triple Rat) (c : Chan), s.run = .running → s.fx.fxv = true → memWf (s.rh.get c) →
    let cfg := Config.build
    let cell := s.t % rhLen cfg
    let after := (tickEvent cfg src s).rh.get c
    rhLen cfg = max 1 (cfg.revMaxMs * cfg.fs / 1000) ∧
    memRead after cell = cfg.q (foutSig cfg src s c) ∧
    (∀ a, a ≠ cell → memRead after a = memRead (s.rh.get c) a) ∧
    routSig cfg src s c = ∑ i ∈ Finset.range s.fx.irLen,
      memRead (s.ir.get c) i * memRead after (((s.t : Int) - i) % (rhLen cfg : Int)).toNat

/-- Second sum, drive stage, master gain, limiter and output; the limiter never amplifies (44_effects_bus.md R190,
R192, R194, R195, R198; 46_capture_sink.md R224). -/
def Obligations.TickOutput : Prop :=
  ∀ (s : State) (src : Triple Rat), s.run = .running → s.fx.fxv = true → 0 ≤ s.limE →
    let cfg := Config.build
    let t := tickEvent cfg src s
    (∀ c : Chan,
      let drv := foutSig cfg src s c + s.fx.dmix.cur * doutSig cfg s c + s.fx.rmix.cur * routSig cfg src s c
      let pos := (within drv (-1) 1 + 1) / 2 * ((cfg.wsN : Rat) - 1)
      let i := min pos.floor.toNat (cfg.wsN - 2)
      mgSig cfg src s c = s.fx.mgain.cur *
        (memRead s.lut i + (pos - i) * (memRead s.lut (i + 1) - memRead s.lut i)) ∧
      ∃ g : Rat, g = cfg.limCurve t.limE ∧ 0 < g ∧ g ≤ 1 ∧ t.ports.out.get c = cfg.q (g * mgSig cfg src s c) ∧
        |g * mgSig cfg src s c| ≤ |mgSig cfg src s c|) ∧
    (∀ p, p = max |mgSig cfg src s .left| |mgSig cfg src s .right| →
      (s.limE < p → t.limE = s.limE + cfg.limAAtt * (p - s.limE)) ∧
      (p ≤ s.limE → t.limE = s.limE + cfg.limARel * (p - s.limE))) ∧
    0 ≤ t.limE ∧ t.ports.outValid = true ∧
    t.recBuf = (if s.cap = .recording then s.recBuf ++ [t.ports.out] else s.recBuf) ∧
    t.ports.capFrame = if s.cap = .recording then some t.ports.out else none

/-- The end of a tick: phases and smoothers move on, `t` counts, and nothing but signal state, the recording and the
ports changes besides (40_commands.md R111 steps 15 to 17; 42_modulation_router.md R146). -/
def Obligations.TickControl : Prop :=
  ∀ (s : State) (src : Triple Rat), s.run = .running → s.fx.fxv = true →
    ∃ filt dl rh limE recBuf ports vs fx,
      tickEvent Config.build src s = { s with
        filt := filt, dl := dl, rh := rh, limE := limE, recBuf := recBuf, ports := ports, voices := vs, fx := fx
        t := s.t + 1 } ∧
      (∀ v : VoiceId, ∃ freq det rate lvl pan lforate,
        ((s.voices.get v).present = false → vs.get v = s.voices.get v) ∧
        ((s.voices.get v).present = true →
          vs.get v = { s.voices.get v with
            lfoPh := Int.fract ((s.voices.get v).lfoPh + (s.voices.get v).lforate.cur / Config.build.fs)
            freq := freq, det := det, rate := rate, lvl := lvl, pan := pan, lforate := lforate } ∧
          AfterTicks 1 (s.voices.get v).freq freq ∧ AfterTicks 1 (s.voices.get v).det det ∧
          AfterTicks 1 (s.voices.get v).rate rate ∧ AfterTicks 1 (s.voices.get v).lvl lvl ∧
          AfterTicks 1 (s.voices.get v).pan pan ∧ AfterTicks 1 (s.voices.get v).lforate lforate)) ∧
      ∃ fc fq dtime dfb dmix rmix mgain,
        fx = { s.fx with
          fc := fc, fq := fq, dtime := dtime, dfb := dfb, dmix := dmix, rmix := rmix, mgain := mgain } ∧
        AfterTicks 1 s.fx.fc fc ∧ AfterTicks 1 s.fx.fq fq ∧ AfterTicks 1 s.fx.dtime dtime ∧
        AfterTicks 1 s.fx.dfb dfb ∧ AfterTicks 1 s.fx.dmix dmix ∧ AfterTicks 1 s.fx.rmix rmix ∧
        AfterTicks 1 s.fx.mgain mgain

/-- After `n` ticks a smoother stands at `tgt + (cur0 - tgt) * (1 - alpha)^n`, and the phase of an LFO whose rate has
settled has gone `n` equal steps (41_voice_manager.md R130; 42_modulation_router.md R146). -/
def Obligations.SmootherClosedForm : Prop :=
  ∀ (s : State) (srcs : List (Triple Rat)), s.run = .running → s.fx.fxv = true →
    let n := srcs.length
    let t := ticks srcs s
    AfterTicks n s.fx.fc t.fx.fc ∧ AfterTicks n s.fx.fq t.fx.fq ∧ AfterTicks n s.fx.dtime t.fx.dtime ∧
    AfterTicks n s.fx.dfb t.fx.dfb ∧ AfterTicks n s.fx.dmix t.fx.dmix ∧ AfterTicks n s.fx.rmix t.fx.rmix ∧
    AfterTicks n s.fx.mgain t.fx.mgain ∧
    ∀ v : VoiceId, (s.voices.get v).present = true →
      let V := s.voices.get v
      let W := t.voices.get v
      AfterTicks n V.freq W.freq ∧ AfterTicks n V.det W.det ∧ AfterTicks n V.rate W.rate ∧
      AfterTicks n V.lvl W.lvl ∧ AfterTicks n V.pan W.pan ∧ AfterTicks n V.lforate W.lforate ∧
      (V.lforate.cur = V.lforate.tgt → Int.fract V.lfoPh = V.lfoPh →
        W.lfoPh = Int.fract (V.lfoPh + n * (V.lforate.cur / Config.build.fs)))

/-! ### The units over every configuration -/

/-- Properties of the lookup: tables are odd and 0 maps to 0, the identity table is transparent on [-1, 1], the output
is bounded by the table (44_effects_bus.md R193). The quantiser must be odd for the first one to be read off the
rules, which are written with the identity. -/
def Obligations.LookupProperties : Prop :=
  ∀ (cfg : Config) (m : SampleMem) (x : Rat),
    ((∀ y, cfg.q (-y) = -cfg.q y) → ∀ k, 0 ≤ k → ∀ i, i < cfg.wsN →
      memRead (driveTable cfg k) (cfg.wsN - 1 - i) = -memRead (driveTable cfg k) i) ∧
    (∀ i, i < cfg.wsN → memRead (identityTable cfg) (cfg.wsN - 1 - i) = -memRead (identityTable cfg) i) ∧
    ((∀ i, i < cfg.wsN → memRead m (cfg.wsN - 1 - i) = -memRead m i) → lutLookup cfg m 0 = 0) ∧
    lutLookup cfg (identityTable cfg) x = within x (-1) 1 ∧
    ∀ B, (∀ i, i < cfg.wsN → |memRead m i| ≤ B) → |lutLookup cfg m x| ≤ B

/-- The echo law: with a settled delay time and feedback and an empty delay line, an impulse on `fout` in tick `t1` comes
back on `dout` every `D` ticks, `f` times weaker each time, and at no other tick (44_effects_bus.md R187, with the
identity quantiser the rules are written with). -/
def Obligations.EchoLaw : Prop :=
  ∀ (cfg : Config) (s : State) (srcs : List (Triple Rat)) (c : Chan) (t1 : Nat),
    (∀ x, cfg.q x = x) → s.run = .running → s.fx.fxv = true → memWf (s.dl.get c) →
    (∀ a, memRead (s.dl.get c) a = 0) → s.fx.dtime.cur = s.fx.dtime.tgt → s.fx.dfb.cur = s.fx.dfb.tgt →
    let D := max 1 (s.fx.dtime.cur * cfg.fs).floor.toNat
    let after (n : Nat) : State := ticksOn cfg (srcs.take n) s
    D < dlLen cfg →
    (∀ n (h : n < srcs.length), foutSig cfg srcs[n] (after n) c = if n = t1 then 1 else 0) →
    (∀ j, t1 + (j + 1) * D ≤ srcs.length → doutSig cfg (after (t1 + (j + 1) * D)) c = s.fx.dfb.cur ^ j) ∧
    ∀ n, n ≤ srcs.length → (∀ j, n ≠ t1 + (j + 1) * D) → doutSig cfg (after n) c = 0

/-- Silence in, silence out, for every Patch, every parameter and every instance of the configuration functions whose
quantiser is odd: quiet signal state stays quiet under ticks without input and under APPLY, and the frame is silent
(44_effects_bus.md R199). -/
def Obligations.SilenceInSilenceOut : Prop :=
  ∀ cfg : Config, (∀ y, cfg.q (-y) = -cfg.q y) →
    Quiet cfg { State.reset with lut := identityTable cfg } ∧
    ∀ s : State, Quiet cfg s →
      Quiet cfg (reconcile cfg s) ∧
      ∀ src : Triple Rat, (∀ c, finSig cfg src s c = 0) →
        Quiet cfg (tickEvent cfg src s) ∧ (tickEvent cfg src s).ports.out = ⟨0, 0⟩

/-- The envelope bound of an impulse response, its fall, and what it means for the convolver
(45_curve_generators.md R208, with the identity quantiser the rules are written with). -/
def Obligations.ImpulseBound : Prop :=
  ∀ cfg : Config, (∀ x, cfg.q x = x) → ∀ (session syn : Nat) (c : Chan) (L : Nat), 1 ≤ L →
    (∀ i, i < L → |memRead (impulseChannel cfg session syn c L) i| ≤ (1 - (i : Rat) / L) ^ 2) ∧
    (∀ i, i + 1 < L → (1 - ((i + 1 : Nat) : Rat) / L) ^ 2 < (1 - (i : Rat) / L) ^ 2) ∧
    ∑ i ∈ Finset.range L, (1 - (i : Rat) / L) ^ 2 = ((L : Rat) + 1) * (2 * L + 1) / (6 * L) ∧
    ∀ (h : Nat → Rat) (B : Rat), (∀ i, |h i| ≤ B) →
      |∑ i ∈ Finset.range L, memRead (impulseChannel cfg session syn c L) i * h i| ≤
        ((L : Rat) + 1) * (2 * L + 1) / (6 * L) * B

/-- The waveshaper curve for `k > 0`: odd, zero at 0, strictly increasing, its end value; steeper near 0 for a larger
`k > 0`; the identity for `k = 0` (45_curve_generators.md R210, R211, R212). That `PI_Q` is near enough to pi
for the end value and for the steepness is a premise (log 21). -/
def Obligations.CurveShape : Prop :=
  ∀ cfg : Config,
    (∀ x, curve cfg 0 x = x) ∧
    (∀ k, 0 < k →
      (∀ x, curve cfg k (-x) = -curve cfg k x) ∧ curve cfg k 0 = 0 ∧
      (∀ x y, x < y → curve cfg k x < curve cfg k y) ∧
      curve cfg k 1 = (3 + k) * cfg.piQ / (9 * (cfg.piQ + k)) ∧ (cfg.piQ ≤ 9 → curve cfg k 1 < 1)) ∧
    ∀ k l x, 0 < k → k < l → 0 < x → 3 * x < cfg.piQ → curve cfg k x / x < curve cfg l x / x

/-! ### The whole machine -/

/-- State that 70_reset_and_hazards.md R251 calls unspecified is read by nothing: two states of the block that differ
only there step to states that differ only there. -/
def Obligations.UnreadStateIsUnread : Prop :=
  ∀ s u t w : State, BlockInv s → BlockInv u → s.seen = u.seen → step s = .next t → step u = .next w →
    t.seen = w.seen

/-- Every step keeps the invariant of the block. -/
def Obligations.BlockInvKept : Prop :=
  ∀ s t : State, BlockInv s → step s = .next t → BlockInv t

/-- The invariant of the block holds after reset. -/
def Obligations.BlockInvAtReset : Prop := BlockInv State.reset

/-- What reset leaves, from whatever state (10_state.md R47; 70_reset_and_hazards.md R250, R252). -/
def Obligations.ResetLeaves : Prop :=
  ∀ s : State, ∃ t, runEvent .rst s = .next t ∧
    (∀ r : PatchReg, t.patch.read r = 0) ∧ t.run = .uninit ∧ t.t = 0 ∧ t.errIll = false ∧ t.errCap = false ∧
    (∀ v : VoiceId,
      let V := t.voices.get v
      V.present = false ∧ V.epoch = 0 ∧ V.route = .none ∧ V.amt = 0 ∧ V.freq.valid = false ∧ V.det.valid = false ∧
      V.rate.valid = false ∧ V.lvl.valid = false ∧ V.pan.valid = false ∧ V.lforate.valid = false) ∧
    t.fx.fxv = false ∧ t.fx.fc.valid = false ∧ t.fx.fq.valid = false ∧ t.fx.dtime.valid = false ∧
    t.fx.dfb.valid = false ∧ t.fx.dmix.valid = false ∧ t.fx.rmix.valid = false ∧ t.fx.mgain.valid = false ∧
    t.fx.k = 0 ∧ t.fx.irMs = none ∧ t.fx.irLen = 0 ∧ t.fx.syn = 0 ∧
    (∀ c, t.filt.get c = ⟨0, 0, 0, 0⟩) ∧ (∀ c a, memRead (t.dl.get c) a = 0) ∧
    (∀ c a, memRead (t.rh.get c) a = 0) ∧ (∀ c, t.ir.get c = []) ∧
    (∀ i, i < Config.build.wsN → memRead t.lut i = -1 + 2 * i / ((Config.build.wsN : Rat) - 1)) ∧
    t.limE = 0 ∧ t.cap = .idle ∧ t.tapCreated = false ∧ t.recBuf = [] ∧ t.cq = [] ∧ t.rq = [] ∧
    t.ports.out = ⟨0, 0⟩ ∧ t.ports.outValid = false

/-- No run stops, from any state: there is no refusal and no stuck state inside the block (00_scope.md R14). -/
def Obligations.EveryRunIsSafe : Prop := ∀ s : State, SafeRun s
end

