-- ==== Sys2Proof/Laws/Ops.lean ====
section
/-!
SUPPORT. The laws of the shared operations: pairs and triples, the staged bank, helper functions, smoothers, errors.
-/

namespace Sys2Proof

@[simp] theorem Stereo.get_each {α : Type} (f : Chan → α) (c : Chan) : (Stereo.each f).get c = f c := by
  cases c <;> rfl

theorem Stereo.ext_get {α : Type} {p r : Stereo α} (h : ∀ c, p.get c = r.get c) : p = r := by
  obtain ⟨pl, pr⟩ := p
  obtain ⟨rl, rr⟩ := r
  have hl : pl = rl := h .left
  have hr : pr = rr := h .right
  rw [hl, hr]

@[simp] theorem Triple.get_each {α : Type} (f : VoiceId → α) (v : VoiceId) : (Triple.each f).get v = f v := by
  cases v <;> rfl

theorem Triple.ext_get {α : Type} {p r : Triple α} (h : ∀ v, p.get v = r.get v) : p = r := by
  obtain ⟨p0, p1, p2⟩ := p
  obtain ⟨r0, r1, r2⟩ := r
  have h0 : p0 = r0 := h .v0
  have h1 : p1 = r1 := h .v1
  have h2 : p2 = r2 := h .v2
  rw [h0, h1, h2]

@[simp] theorem Triple.get_set_same {α : Type} (p : Triple α) (v : VoiceId) (x : α) : (p.set v x).get v = x := by
  cases v <;> rfl

@[simp] theorem Triple.get_set_ne {α : Type} (p : Triple α) {v w : VoiceId} (x : α) (h : w ≠ v) :
    (p.set v x).get w = p.get w := by
  cases v <;> cases w <;> first | rfl | exact absurd rfl h

namespace Machine

/-! ### The staged bank -/

@[simp] theorem VoicePatch.read_write_same (p : VoicePatch) (r : VoiceReg) (x : Half) : (p.write r x).read r = x := by
  cases r <;> rfl

@[simp] theorem VoicePatch.read_write_ne (p : VoicePatch) {r r' : VoiceReg} (x : Half) (h : r' ≠ r) :
    (p.write r x).read r' = p.read r' := by
  cases r <;> cases r' <;> first | rfl | exact absurd rfl h

/-- A register written reads back. -/
@[simp] theorem Patch.read_write_same (p : Patch) (r : PatchReg) (x : Half) : (p.write r x).read r = x := by
  cases r with
  | voice v r => simp [Patch.write, Patch.read]
  | effect r => cases r <;> rfl

/-- A write leaves every other register alone. -/
@[simp] theorem Patch.read_write_ne (p : Patch) {r r' : PatchReg} (x : Half) (h : r' ≠ r) :
    (p.write r x).read r' = p.read r' := by
  cases r with
  | voice v r =>
    cases r' with
    | voice v' r' =>
      by_cases hv : v' = v
      · subst hv
        have hr : r' ≠ r := fun e => h (by rw [e])
        simp [Patch.write, Patch.read, hr]
      · simp [Patch.write, Patch.read, hv]
    | effect r' => cases r' <;> rfl
  | effect r =>
    cases r' with
    | voice v' r' => cases r <;> rfl
    | effect r' => cases r <;> cases r' <;> first | rfl | exact absurd rfl h

/-! ### Helper functions -/

theorem le_clamp {x lo hi : Rat} (h : lo ≤ hi) : lo ≤ clamp x lo hi := by
  unfold clamp; split_ifs <;> linarith

theorem clamp_le {x lo hi : Rat} (h : lo ≤ hi) : clamp x lo hi ≤ hi := by
  unfold clamp; split_ifs <;> linarith

theorem clamp_of_mem {x lo hi : Rat} (h0 : lo ≤ x) (h1 : x ≤ hi) : clamp x lo hi = x := by
  unfold clamp; split_ifs <;> linarith

theorem le_clampNat {x lo hi : Nat} (h : lo ≤ hi) : lo ≤ clampNat x lo hi := by
  unfold clampNat; split_ifs <;> omega

theorem clampNat_le {x lo hi : Nat} (h : lo ≤ hi) : clampNat x lo hi ≤ hi := by
  unfold clampNat; split_ifs <;> omega

theorem frac_nonneg (x : Rat) : 0 ≤ frac x := Int.fract_nonneg x

theorem frac_lt_one (x : Rat) : frac x < 1 := Int.fract_lt_one x

theorem pow2_pos (j : Int) : 0 < pow2 j := zpow_pos (by norm_num) j

theorem milli_nonneg (r : Half) : 0 ≤ milli r := by unfold milli; positivity

theorem milli_le (r : Half) : milli r ≤ 65535 / 1000 := by
  have h : (r.toNat : Rat) ≤ 65535 := by exact_mod_cast (by omega : r.toNat ≤ 65535)
  unfold milli; linarith

theorem rampTicks_pos (cfg : Config) (r : Half) : 0 < rampTicks cfg r := by
  have h1 : (0 : Rat) < (max (ms r) cfg.tFloorMs : Nat) := by
    exact_mod_cast lt_of_lt_of_le cfg.tFloorMs_pos (le_max_right _ _)
  have h2 : (0 : Rat) < cfg.fs := by exact_mod_cast cfg.fs_pos
  unfold rampTicks msToTicks; positivity

theorem ringIndex_lt (t d : Nat) {n : Nat} (h : 0 < n) : ringIndex t d n < n := by
  unfold ringIndex
  have := Int.emod_lt_of_pos ((t : Int) - d) (by omega : (0 : Int) < n)
  have := Int.emod_nonneg ((t : Int) - d) (by omega : (n : Int) ≠ 0)
  omega

theorem dlLen_pos (cfg : Config) : 0 < dlLen cfg := Nat.succ_pos _

theorem rhLen_pos (cfg : Config) : 0 < rhLen cfg := Nat.lt_of_lt_of_le Nat.one_pos (Nat.le_max_left _ _)

theorem impulseLen_pos (cfg : Config) (m : Nat) : 0 < impulseLen cfg m :=
  Nat.lt_of_lt_of_le Nat.one_pos (Nat.le_max_left _ _)

theorem impulseLen_le (cfg : Config) {m : Nat} (h : m ≤ cfg.revMaxMs) : impulseLen cfg m ≤ rhLen cfg :=
  max_le_max le_rfl (Nat.div_le_div_right (Nat.mul_le_mul_right _ h))

/-! ### Smoothers -/

/-- A smoother after `retarget` is loaded and aims at the value. -/
@[simp] theorem retarget_valid (s : Smoother) (x a : Rat) : (retarget s x a).valid = true := by
  unfold retarget; split_ifs <;> simp_all

@[simp] theorem retarget_tgt (s : Smoother) (x a : Rat) : (retarget s x a).tgt = x := by
  unfold retarget; split_ifs <;> simp_all

/-- A first load puts the value at the target. -/
@[simp] theorem retarget_of_not_valid {s : Smoother} (x a : Rat) (h : s.valid = false) :
    retarget s x a = { cur := x, tgt := x, alpha := a, valid := true } := by
  simp [retarget, h]

/-- A loaded smoother is never stepped. -/
theorem retarget_cur {s : Smoother} (x a : Rat) (h : s.valid = true) : (retarget s x a).cur = s.cur := by
  unfold retarget; split_ifs <;> simp_all

/-- An unchanged target leaves the ramp in flight alone. -/
theorem retarget_same {s : Smoother} {x : Rat} (a : Rat) (h : s.valid = true) (hx : s.tgt = x) :
    retarget s x a = s := by
  simp [retarget, h, hx]

/-- A second `retarget` to the same value, whatever its speed, changes nothing. -/
@[simp] theorem retarget_retarget (s : Smoother) (x a b : Rat) : retarget (retarget s x a) x b = retarget s x a :=
  retarget_same b (retarget_valid s x a) (retarget_tgt s x a)

theorem retarget_alpha (s : Smoother) (x a : Rat) :
    (retarget s x a).alpha = a ∨ (retarget s x a).alpha = s.alpha ∧ s.valid = true := by
  unfold retarget; split_ifs <;> simp_all

@[simp] theorem advance_valid (s : Smoother) : (advance s).valid = s.valid := by unfold advance; split_ifs <;> rfl

@[simp] theorem advance_tgt (s : Smoother) : (advance s).tgt = s.tgt := by unfold advance; split_ifs <;> rfl

@[simp] theorem advance_alpha (s : Smoother) : (advance s).alpha = s.alpha := by unfold advance; split_ifs <;> rfl

theorem advance_cur {s : Smoother} (h : s.valid = true) :
    (advance s).cur = s.cur + s.alpha * (s.tgt - s.cur) := by simp [advance, h]

theorem advance_of_not_valid {s : Smoother} (h : s.valid = false) : advance s = s := by simp [advance, h]

@[simp] theorem invalidate_valid (s : Smoother) : (invalidate s).valid = false := rfl

/-! ### Responses and errors -/

theorem raiseError_illegal (s : State) :
    raiseError .illegal s = { s with errIll := true, rq := s.rq ++ [0x10000000#32] } := rfl

theorem raiseError_capture (s : State) :
    raiseError .capture s = { s with errCap := true, rq := s.rq ++ [0x20000000#32] } := rfl

theorem respWord_ok (d : Half) : respWord .ok d = (0 : BitVec 16) ++ d := by
  unfold respWord respCodeBits
  ext i hi
  simp only [BitVec.getElem_append]
  split <;> simp

theorem whenStarted_started {s : State} (f : State → State) (h : s.run ≠ .uninit) : whenStarted f s = f s := by
  unfold whenStarted; split <;> simp_all

theorem whenStarted_uninit {s : State} (f : State → State) (h : s.run = .uninit) :
    whenStarted f s = respond .ok 0 s := by
  simp [whenStarted, h]

end Machine

end Sys2Proof
end

