-- ==== Sys2Proof/Laws/State.lean ====
section
/-!
SUPPORT. One lemma per field per update of the state, true by `rfl`.
-/

namespace Sys2Proof.Machine

variable (s : State)

/-! ### `respond` -/

@[simp] theorem respond_patch (c : RespCode) (d : Half) : (respond c d s).patch = s.patch := rfl
@[simp] theorem respond_run (c : RespCode) (d : Half) : (respond c d s).run = s.run := rfl
@[simp] theorem respond_t (c : RespCode) (d : Half) : (respond c d s).t = s.t := rfl
@[simp] theorem respond_errIll (c : RespCode) (d : Half) : (respond c d s).errIll = s.errIll := rfl
@[simp] theorem respond_errCap (c : RespCode) (d : Half) : (respond c d s).errCap = s.errCap := rfl
@[simp] theorem respond_voices (c : RespCode) (d : Half) : (respond c d s).voices = s.voices := rfl
@[simp] theorem respond_fx (c : RespCode) (d : Half) : (respond c d s).fx = s.fx := rfl
@[simp] theorem respond_filt (c : RespCode) (d : Half) : (respond c d s).filt = s.filt := rfl
@[simp] theorem respond_dl (c : RespCode) (d : Half) : (respond c d s).dl = s.dl := rfl
@[simp] theorem respond_rh (c : RespCode) (d : Half) : (respond c d s).rh = s.rh := rfl
@[simp] theorem respond_ir (c : RespCode) (d : Half) : (respond c d s).ir = s.ir := rfl
@[simp] theorem respond_lut (c : RespCode) (d : Half) : (respond c d s).lut = s.lut := rfl
@[simp] theorem respond_limE (c : RespCode) (d : Half) : (respond c d s).limE = s.limE := rfl
@[simp] theorem respond_cap (c : RespCode) (d : Half) : (respond c d s).cap = s.cap := rfl
@[simp] theorem respond_tapCreated (c : RespCode) (d : Half) : (respond c d s).tapCreated = s.tapCreated := rfl
@[simp] theorem respond_recBuf (c : RespCode) (d : Half) : (respond c d s).recBuf = s.recBuf := rfl
@[simp] theorem respond_cq (c : RespCode) (d : Half) : (respond c d s).cq = s.cq := rfl
@[simp] theorem respond_rq (c : RespCode) (d : Half) : (respond c d s).rq = s.rq ++ [respWord c d] := rfl
@[simp] theorem respond_ports (c : RespCode) (d : Half) : (respond c d s).ports = s.ports := rfl
@[simp] theorem respond_delivered (c : RespCode) (d : Half) : (respond c d s).delivered = s.delivered := rfl
@[simp] theorem respond_pending (c : RespCode) (d : Half) : (respond c d s).pending = s.pending := rfl
@[simp] theorem respond_session (c : RespCode) (d : Half) : (respond c d s).session = s.session := rfl

/-! ### `idlePorts` -/

@[simp] theorem idlePorts_out (p : Ports) : (idlePorts p).out = ⟨0, 0⟩ := rfl
@[simp] theorem idlePorts_outValid (p : Ports) : (idlePorts p).outValid = false := rfl
@[simp] theorem idlePorts_capFrame (p : Ports) : (idlePorts p).capFrame = none := rfl
@[simp] theorem idlePorts_capLast (p : Ports) : (idlePorts p).capLast = p.capLast := rfl
@[simp] theorem idlePorts_src (p : Ports) : (idlePorts p).src = p.src := rfl

/-! ### `tickActive` -/

@[simp] theorem tickActive_patch (cfg : Config) (src : Triple Rat) : (tickActive cfg src s).patch = s.patch := rfl
@[simp] theorem tickActive_run (cfg : Config) (src : Triple Rat) : (tickActive cfg src s).run = s.run := rfl
@[simp] theorem tickActive_t (cfg : Config) (src : Triple Rat) : (tickActive cfg src s).t = s.t + 1 := rfl
@[simp] theorem tickActive_errIll (cfg : Config) (src : Triple Rat) : (tickActive cfg src s).errIll = s.errIll := rfl
@[simp] theorem tickActive_errCap (cfg : Config) (src : Triple Rat) : (tickActive cfg src s).errCap = s.errCap := rfl
@[simp] theorem tickActive_voices (cfg : Config) (src : Triple Rat) : (tickActive cfg src s).voices = .each fun v => advanceVoice cfg (s.voices.get v) := rfl
@[simp] theorem tickActive_fx (cfg : Config) (src : Triple Rat) : (tickActive cfg src s).fx = advanceEffects s.fx := rfl
@[simp] theorem tickActive_filt (cfg : Config) (src : Triple Rat) : (tickActive cfg src s).filt = .each (filterNext cfg src s) := rfl
@[simp] theorem tickActive_dl (cfg : Config) (src : Triple Rat) : (tickActive cfg src s).dl = .each (delayNext cfg src s) := rfl
@[simp] theorem tickActive_rh (cfg : Config) (src : Triple Rat) : (tickActive cfg src s).rh = .each (historyNext cfg src s) := rfl
@[simp] theorem tickActive_ir (cfg : Config) (src : Triple Rat) : (tickActive cfg src s).ir = s.ir := rfl
@[simp] theorem tickActive_lut (cfg : Config) (src : Triple Rat) : (tickActive cfg src s).lut = s.lut := rfl
@[simp] theorem tickActive_limE (cfg : Config) (src : Triple Rat) : (tickActive cfg src s).limE = limNext cfg src s := rfl
@[simp] theorem tickActive_cap (cfg : Config) (src : Triple Rat) : (tickActive cfg src s).cap = s.cap := rfl
@[simp] theorem tickActive_tapCreated (cfg : Config) (src : Triple Rat) : (tickActive cfg src s).tapCreated = s.tapCreated := rfl
@[simp] theorem tickActive_recBuf (cfg : Config) (src : Triple Rat) : (tickActive cfg src s).recBuf = recordFrame s.cap s.recBuf (.each (outSig cfg src s)) := rfl
@[simp] theorem tickActive_cq (cfg : Config) (src : Triple Rat) : (tickActive cfg src s).cq = s.cq := rfl
@[simp] theorem tickActive_rq (cfg : Config) (src : Triple Rat) : (tickActive cfg src s).rq = s.rq := rfl
@[simp] theorem tickActive_ports (cfg : Config) (src : Triple Rat) : (tickActive cfg src s).ports = 
      { out := .each (outSig cfg src s), outValid := true, capFrame := capturePort s.cap (.each (outSig cfg src s)),
        capLast := false, src := .each fun v => srcControl cfg (s.voices.get v) } := rfl
@[simp] theorem tickActive_delivered (cfg : Config) (src : Triple Rat) : (tickActive cfg src s).delivered = s.delivered := rfl
@[simp] theorem tickActive_pending (cfg : Config) (src : Triple Rat) : (tickActive cfg src s).pending = s.pending := rfl
@[simp] theorem tickActive_session (cfg : Config) (src : Triple Rat) : (tickActive cfg src s).session = s.session := rfl

/-! ### `tickSilent` -/

@[simp] theorem tickSilent_patch : (tickSilent s).patch = s.patch := rfl
@[simp] theorem tickSilent_run : (tickSilent s).run = s.run := rfl
@[simp] theorem tickSilent_t : (tickSilent s).t = s.t + 1 := rfl
@[simp] theorem tickSilent_errIll : (tickSilent s).errIll = s.errIll := rfl
@[simp] theorem tickSilent_errCap : (tickSilent s).errCap = s.errCap := rfl
@[simp] theorem tickSilent_voices : (tickSilent s).voices = s.voices := rfl
@[simp] theorem tickSilent_fx : (tickSilent s).fx = s.fx := rfl
@[simp] theorem tickSilent_filt : (tickSilent s).filt = s.filt := rfl
@[simp] theorem tickSilent_dl : (tickSilent s).dl = s.dl := rfl
@[simp] theorem tickSilent_rh : (tickSilent s).rh = s.rh := rfl
@[simp] theorem tickSilent_ir : (tickSilent s).ir = s.ir := rfl
@[simp] theorem tickSilent_lut : (tickSilent s).lut = s.lut := rfl
@[simp] theorem tickSilent_limE : (tickSilent s).limE = s.limE := rfl
@[simp] theorem tickSilent_cap : (tickSilent s).cap = s.cap := rfl
@[simp] theorem tickSilent_tapCreated : (tickSilent s).tapCreated = s.tapCreated := rfl
@[simp] theorem tickSilent_recBuf : (tickSilent s).recBuf = recordFrame s.cap s.recBuf ⟨0, 0⟩ := rfl
@[simp] theorem tickSilent_cq : (tickSilent s).cq = s.cq := rfl
@[simp] theorem tickSilent_rq : (tickSilent s).rq = s.rq := rfl
@[simp] theorem tickSilent_ports : (tickSilent s).ports = 
      { out := ⟨0, 0⟩, outValid := true, capFrame := capturePort s.cap ⟨0, 0⟩, capLast := false,
        src := ⟨none, none, none⟩ } := rfl
@[simp] theorem tickSilent_delivered : (tickSilent s).delivered = s.delivered := rfl
@[simp] theorem tickSilent_pending : (tickSilent s).pending = s.pending := rfl
@[simp] theorem tickSilent_session : (tickSilent s).session = s.session := rfl

/-! ### `tickIdle` -/

@[simp] theorem tickIdle_patch : (tickIdle s).patch = s.patch := rfl
@[simp] theorem tickIdle_run : (tickIdle s).run = s.run := rfl
@[simp] theorem tickIdle_t : (tickIdle s).t = s.t := rfl
@[simp] theorem tickIdle_errIll : (tickIdle s).errIll = s.errIll := rfl
@[simp] theorem tickIdle_errCap : (tickIdle s).errCap = s.errCap := rfl
@[simp] theorem tickIdle_voices : (tickIdle s).voices = s.voices := rfl
@[simp] theorem tickIdle_fx : (tickIdle s).fx = s.fx := rfl
@[simp] theorem tickIdle_filt : (tickIdle s).filt = s.filt := rfl
@[simp] theorem tickIdle_dl : (tickIdle s).dl = s.dl := rfl
@[simp] theorem tickIdle_rh : (tickIdle s).rh = s.rh := rfl
@[simp] theorem tickIdle_ir : (tickIdle s).ir = s.ir := rfl
@[simp] theorem tickIdle_lut : (tickIdle s).lut = s.lut := rfl
@[simp] theorem tickIdle_limE : (tickIdle s).limE = s.limE := rfl
@[simp] theorem tickIdle_cap : (tickIdle s).cap = s.cap := rfl
@[simp] theorem tickIdle_tapCreated : (tickIdle s).tapCreated = s.tapCreated := rfl
@[simp] theorem tickIdle_recBuf : (tickIdle s).recBuf = s.recBuf := rfl
@[simp] theorem tickIdle_cq : (tickIdle s).cq = s.cq := rfl
@[simp] theorem tickIdle_rq : (tickIdle s).rq = s.rq := rfl
@[simp] theorem tickIdle_ports : (tickIdle s).ports = 
      { s.ports with out := ⟨0, 0⟩, outValid := false, capFrame := none, capLast := false } := rfl
@[simp] theorem tickIdle_delivered : (tickIdle s).delivered = s.delivered := rfl
@[simp] theorem tickIdle_pending : (tickIdle s).pending = s.pending := rfl
@[simp] theorem tickIdle_session : (tickIdle s).session = s.session := rfl

/-! ### `withFetchWord` -/

@[simp] theorem withFetchWord_patch (nbits w : Nat) : (s.withFetchWord nbits w).patch = s.patch := rfl
@[simp] theorem withFetchWord_run (nbits w : Nat) : (s.withFetchWord nbits w).run = s.run := rfl
@[simp] theorem withFetchWord_t (nbits w : Nat) : (s.withFetchWord nbits w).t = s.t := rfl
@[simp] theorem withFetchWord_errIll (nbits w : Nat) : (s.withFetchWord nbits w).errIll = s.errIll := rfl
@[simp] theorem withFetchWord_errCap (nbits w : Nat) : (s.withFetchWord nbits w).errCap = s.errCap := rfl
@[simp] theorem withFetchWord_voices (nbits w : Nat) : (s.withFetchWord nbits w).voices = s.voices := rfl
@[simp] theorem withFetchWord_fx (nbits w : Nat) : (s.withFetchWord nbits w).fx = s.fx := rfl
@[simp] theorem withFetchWord_filt (nbits w : Nat) : (s.withFetchWord nbits w).filt = s.filt := rfl
@[simp] theorem withFetchWord_dl (nbits w : Nat) : (s.withFetchWord nbits w).dl = s.dl := rfl
@[simp] theorem withFetchWord_rh (nbits w : Nat) : (s.withFetchWord nbits w).rh = s.rh := rfl
@[simp] theorem withFetchWord_ir (nbits w : Nat) : (s.withFetchWord nbits w).ir = s.ir := rfl
@[simp] theorem withFetchWord_lut (nbits w : Nat) : (s.withFetchWord nbits w).lut = s.lut := rfl
@[simp] theorem withFetchWord_limE (nbits w : Nat) : (s.withFetchWord nbits w).limE = s.limE := rfl
@[simp] theorem withFetchWord_cap (nbits w : Nat) : (s.withFetchWord nbits w).cap = s.cap := rfl
@[simp] theorem withFetchWord_tapCreated (nbits w : Nat) : (s.withFetchWord nbits w).tapCreated = s.tapCreated := rfl
@[simp] theorem withFetchWord_recBuf (nbits w : Nat) : (s.withFetchWord nbits w).recBuf = s.recBuf := rfl
@[simp] theorem withFetchWord_cq (nbits w : Nat) : (s.withFetchWord nbits w).cq = BitVec.ofNat 32 (w % 2 ^ nbits) :: s.cq := rfl
@[simp] theorem withFetchWord_rq (nbits w : Nat) : (s.withFetchWord nbits w).rq = s.rq := rfl
@[simp] theorem withFetchWord_ports (nbits w : Nat) : (s.withFetchWord nbits w).ports = s.ports := rfl
@[simp] theorem withFetchWord_delivered (nbits w : Nat) : (s.withFetchWord nbits w).delivered = s.delivered := rfl
@[simp] theorem withFetchWord_pending (nbits w : Nat) : (s.withFetchWord nbits w).pending = .command :: s.pending := rfl
@[simp] theorem withFetchWord_session (nbits w : Nat) : (s.withFetchWord nbits w).session = s.session := rfl

/-! ### `rebuildTable` -/

@[simp] theorem rebuildTable_patch (cfg : Config) : (rebuildTable cfg s).patch = s.patch := rfl
@[simp] theorem rebuildTable_run (cfg : Config) : (rebuildTable cfg s).run = s.run := rfl
@[simp] theorem rebuildTable_t (cfg : Config) : (rebuildTable cfg s).t = s.t := rfl
@[simp] theorem rebuildTable_errIll (cfg : Config) : (rebuildTable cfg s).errIll = s.errIll := rfl
@[simp] theorem rebuildTable_errCap (cfg : Config) : (rebuildTable cfg s).errCap = s.errCap := rfl
@[simp] theorem rebuildTable_voices (cfg : Config) : (rebuildTable cfg s).voices = s.voices := rfl
@[simp] theorem rebuildTable_fx (cfg : Config) : (rebuildTable cfg s).fx = { s.fx with k := driveIntensity cfg s.patch.drive } := rfl
@[simp] theorem rebuildTable_filt (cfg : Config) : (rebuildTable cfg s).filt = s.filt := rfl
@[simp] theorem rebuildTable_dl (cfg : Config) : (rebuildTable cfg s).dl = s.dl := rfl
@[simp] theorem rebuildTable_rh (cfg : Config) : (rebuildTable cfg s).rh = s.rh := rfl
@[simp] theorem rebuildTable_ir (cfg : Config) : (rebuildTable cfg s).ir = s.ir := rfl
@[simp] theorem rebuildTable_lut (cfg : Config) : (rebuildTable cfg s).lut = driveTable cfg (driveIntensity cfg s.patch.drive) := rfl
@[simp] theorem rebuildTable_limE (cfg : Config) : (rebuildTable cfg s).limE = s.limE := rfl
@[simp] theorem rebuildTable_cap (cfg : Config) : (rebuildTable cfg s).cap = s.cap := rfl
@[simp] theorem rebuildTable_tapCreated (cfg : Config) : (rebuildTable cfg s).tapCreated = s.tapCreated := rfl
@[simp] theorem rebuildTable_recBuf (cfg : Config) : (rebuildTable cfg s).recBuf = s.recBuf := rfl
@[simp] theorem rebuildTable_cq (cfg : Config) : (rebuildTable cfg s).cq = s.cq := rfl
@[simp] theorem rebuildTable_rq (cfg : Config) : (rebuildTable cfg s).rq = s.rq := rfl
@[simp] theorem rebuildTable_ports (cfg : Config) : (rebuildTable cfg s).ports = s.ports := rfl
@[simp] theorem rebuildTable_delivered (cfg : Config) : (rebuildTable cfg s).delivered = s.delivered := rfl
@[simp] theorem rebuildTable_pending (cfg : Config) : (rebuildTable cfg s).pending = s.pending := rfl
@[simp] theorem rebuildTable_session (cfg : Config) : (rebuildTable cfg s).session = s.session := rfl

/-! ### `resetEvent` -/

@[simp] theorem resetEvent_patch : (resetEvent s).patch = State.reset.patch := rfl
@[simp] theorem resetEvent_run : (resetEvent s).run = State.reset.run := rfl
@[simp] theorem resetEvent_t : (resetEvent s).t = State.reset.t := rfl
@[simp] theorem resetEvent_errIll : (resetEvent s).errIll = State.reset.errIll := rfl
@[simp] theorem resetEvent_errCap : (resetEvent s).errCap = State.reset.errCap := rfl
@[simp] theorem resetEvent_voices : (resetEvent s).voices = State.reset.voices := rfl
@[simp] theorem resetEvent_fx : (resetEvent s).fx = State.reset.fx := rfl
@[simp] theorem resetEvent_filt : (resetEvent s).filt = State.reset.filt := rfl
@[simp] theorem resetEvent_dl : (resetEvent s).dl = State.reset.dl := rfl
@[simp] theorem resetEvent_rh : (resetEvent s).rh = State.reset.rh := rfl
@[simp] theorem resetEvent_ir : (resetEvent s).ir = State.reset.ir := rfl
@[simp] theorem resetEvent_lut : (resetEvent s).lut = State.reset.lut := rfl
@[simp] theorem resetEvent_limE : (resetEvent s).limE = State.reset.limE := rfl
@[simp] theorem resetEvent_cap : (resetEvent s).cap = State.reset.cap := rfl
@[simp] theorem resetEvent_tapCreated : (resetEvent s).tapCreated = State.reset.tapCreated := rfl
@[simp] theorem resetEvent_recBuf : (resetEvent s).recBuf = State.reset.recBuf := rfl
@[simp] theorem resetEvent_cq : (resetEvent s).cq = State.reset.cq := rfl
@[simp] theorem resetEvent_rq : (resetEvent s).rq = State.reset.rq := rfl
@[simp] theorem resetEvent_ports : (resetEvent s).ports = State.reset.ports := rfl
@[simp] theorem resetEvent_delivered : (resetEvent s).delivered = s.delivered := rfl
@[simp] theorem resetEvent_pending : (resetEvent s).pending = s.pending := rfl
@[simp] theorem resetEvent_session : (resetEvent s).session = s.session + 1 := rfl

end Sys2Proof.Machine
end

