-- ==== Sys2Proof/Laws/Exec.lean ====
section
/-!
SUPPORT. For each shared operation of a command or a tick, what it can do, said once.
-/

namespace Sys2Proof.Machine

/-! ### Run state and capture -/

theorem startEngine_eq (s : State) : startEngine s = { s with run := .running } := by
  rcases s with ⟨_, run⟩
  cases run <;> rfl

theorem stopEngine_running {s : State} (h : s.run = .running) :
    stopEngine s = { s with run := .suspended, ports := idlePorts s.ports } := by
  unfold stopEngine
  rw [h]

theorem stopEngine_stopped {s : State} (h : s.run ≠ .running) : stopEngine s = s := by
  unfold stopEngine
  cases hr : s.run with
  | running => exact absurd hr h
  | uninit => rfl
  | suspended => rfl

theorem beginCapture_idle {s : State} (h : s.cap = .idle) :
    beginCapture s = respond .ok 0 { s with tapCreated := true, recBuf := [], cap := .recording } := by
  unfold beginCapture
  rw [h]

theorem beginCapture_recording {s : State} (h : s.cap = .recording) : beginCapture s = respond .ok 0 s := by
  unfold beginCapture
  rw [h]

/-! ### Triggers -/

theorem trigger_present {f : Adsr → Envelope → Nat → Envelope} {v : VoiceId} {s : State}
    (h : (s.voices.get v).present = true) :
    trigger f v s = respond .ok 0 { s with
      voices := s.voices.set v
        { s.voices.get v with env := f (s.voices.get v).adsr (s.voices.get v).env s.t } } := by
  unfold trigger
  exact if_pos h

theorem trigger_absent {f : Adsr → Envelope → Nat → Envelope} {v : VoiceId} {s : State}
    (h : (s.voices.get v).present = false) : trigger f v s = respond .ok 0 s := by
  unfold trigger
  exact if_neg (by simp [h])

/-! ### APPLY -/

/-- What the impulse synthesis can do. -/
theorem synthesise_cases (cfg : Config) (s : State) :
    (synthesisDue cfg s = false ∧ synthesise cfg s = s) ∨
    (synthesisDue cfg s = true ∧ synthesise cfg s = { s with
      ir := .each fun c =>
        impulseChannel cfg s.session (s.fx.syn + 1) c (impulseLen cfg (decayMs cfg s.patch.decay))
      fx := { s.fx with
        syn := s.fx.syn + 1
        irLen := impulseLen cfg (decayMs cfg s.patch.decay)
        irMs := some (decayMs cfg s.patch.decay) } }) := by
  unfold synthesise
  cases h : synthesisDue cfg s <;> simp

/-- What an APPLY that acts can do. -/
theorem reconcile_cases (cfg : Config) (s : State) :
    (s.fx.irMs = some (decayMs cfg s.patch.decay) ∧ reconcile cfg s = respond .ok 0 { s with
      voices := applyVoices cfg s
      lut := driveTable cfg (driveIntensity cfg s.patch.drive)
      fx := { applyEffects cfg s.patch s.fx with k := driveIntensity cfg s.patch.drive, fxv := true } }) ∨
    (s.fx.irMs ≠ some (decayMs cfg s.patch.decay) ∧ reconcile cfg s = respond .ok 0 { s with
      voices := applyVoices cfg s
      lut := driveTable cfg (driveIntensity cfg s.patch.drive)
      ir := .each fun c =>
        impulseChannel cfg s.session (s.fx.syn + 1) c (impulseLen cfg (decayMs cfg s.patch.decay))
      fx := { applyEffects cfg s.patch s.fx with
        syn := s.fx.syn + 1
        irLen := impulseLen cfg (decayMs cfg s.patch.decay)
        irMs := some (decayMs cfg s.patch.decay)
        k := driveIntensity cfg s.patch.drive
        fxv := true } }) := by
  rcases synthesise_cases cfg { s with voices := applyVoices cfg s, fx := applyEffects cfg s.patch s.fx } with
    ⟨h, e⟩ | ⟨h, e⟩
  · refine .inl ⟨by simpa [synthesisDue, applyEffects] using h, ?_⟩
    unfold reconcile
    dsimp only
    rw [e]
    rfl
  · refine .inr ⟨by simpa [synthesisDue, applyEffects] using h, ?_⟩
    unfold reconcile
    dsimp only
    rw [e]
    rfl

theorem reconcile_voice (cfg : Config) (s : State) (v : VoiceId) :
    (reconcile cfg s).voices.get v = applyVoice cfg (s.patch.voices.get v) (s.voices.get v) := by
  rcases reconcile_cases cfg s with ⟨_, e⟩ | ⟨_, e⟩ <;> rw [e] <;> simp [applyVoices]

/-! ### Ticks -/

theorem tickEvent_stopped (cfg : Config) (src : Triple Rat) {s : State} (h : s.run ≠ .running) :
    tickEvent cfg src s = tickIdle s := by
  unfold tickEvent
  cases hr : s.run with
  | running => exact absurd hr h
  | uninit => rfl
  | suspended => rfl

theorem tickEvent_silent (cfg : Config) (src : Triple Rat) {s : State} (h : s.run = .running)
    (hf : s.fx.fxv = false) : tickEvent cfg src s = tickSilent s := by
  unfold tickEvent
  rw [h]
  exact if_neg (by simp [hf])

theorem tickEvent_active (cfg : Config) (src : Triple Rat) {s : State} (h : s.run = .running)
    (hf : s.fx.fxv = true) : tickEvent cfg src s = tickActive cfg src s := by
  unfold tickEvent
  rw [h]
  exact if_pos hf

theorem advanceVoice_absent (cfg : Config) {V : Voice} (h : V.present = false) : advanceVoice cfg V = V := by
  simp [advanceVoice, h]

/-! ### Steps -/

theorem controlStep_nil {s : State} (h : s.cq = []) : controlStep s = .next s := by
  unfold controlStep
  rw [h]

theorem controlStep_cons {s : State} {w : Word} {ws : List Word} (h : s.cq = w :: ws) :
    controlStep s = execWord w { s with cq := ws } := by
  unfold controlStep
  rw [h]

theorem step_nil {s : State} (h : s.pending = []) : step s = controlStep s := by
  unfold step machineStep
  rw [h]

theorem step_cons {s : State} {e : HostEvent} {es : List HostEvent} (h : s.pending = e :: es) :
    step s = runEvent e { s with pending := es } := by
  unfold step machineStep
  rw [h]

theorem execWord_ok {w : Word} {i : Instr} (h : decode w = .ok i) (s : State) : execWord w s = exec i s := by
  unfold execWord
  rw [h]

theorem execWord_error {w : Word} {x : IllegalWord} (h : decode w = .error x) (s : State) :
    execWord w s = .next (raiseError .illegal s) := by
  unfold execWord
  rw [h]

end Sys2Proof.Machine
end

