-- ==== Sys2Proof/Laws/Apply.lean ====
section
/-!
SUPPORT. APPLY on one voice, field by field, over the voice as `settleSource` leaves it, and the three things
`settleSource` can do.
-/

namespace Sys2Proof.Machine

variable (cfg : Config) (p : VoicePatch) (V : Voice)

/-! ### `settleSource` -/

theorem settleSource_absent (w : Waveform) (en : Bool) (h : V.present = false) :
    settleSource w en V = { createVoice w en V with wf := w } := by
  simp [settleSource, h]

theorem settleSource_replace (w : Waveform) (en : Bool) (h : V.present = true) (hc : V.cat ≠ catOf w) :
    settleSource w en V = { replaceSource (catOf w) V with wf := w } := by
  simp [settleSource, h, hc]

theorem settleSource_keep (w : Waveform) (en : Bool) (h : V.present = true) (hc : V.cat = catOf w) :
    settleSource w en V = { V with wf := w } := by
  simp [settleSource, h, hc]

theorem settleSource_cases (w : Waveform) (en : Bool) :
    (V.present = false ∧ settleSource w en V = { createVoice w en V with wf := w }) ∨
    (V.present = true ∧ V.cat ≠ catOf w ∧ settleSource w en V = { replaceSource (catOf w) V with wf := w }) ∨
    (V.present = true ∧ V.cat = catOf w ∧ settleSource w en V = { V with wf := w }) := by
  rcases Bool.eq_false_or_eq_true V.present with hp | hp
  · by_cases hc : V.cat = catOf w
    · exact .inr (.inr ⟨hp, hc, settleSource_keep V w en hp hc⟩)
    · exact .inr (.inl ⟨hp, hc, settleSource_replace V w en hp hc⟩)
  · exact .inl ⟨hp, settleSource_absent V w en hp⟩

theorem settleSource_cat (w : Waveform) (en : Bool) : (settleSource w en V).cat = catOf w := by
  rcases settleSource_cases V w en with ⟨_, e⟩ | ⟨_, _, e⟩ | ⟨_, hc, e⟩
  · rw [e]; rfl
  · rw [e]; rfl
  · rw [e]; exact hc

/-! ### `applyVoice` -/

/-- The voice as creation or replacement leaves it. -/
abbrev settledVoice : Voice := settleSource (waveformOf p.waveform) (enabledFlag p) V

theorem settledVoice_absent (h : V.present = false) :
    settledVoice p V =
      { createVoice (waveformOf p.waveform) (enabledFlag p) V with wf := waveformOf p.waveform } :=
  settleSource_absent V _ _ h

theorem settledVoice_replace (h : V.present = true) (hc : V.cat ≠ catOf (waveformOf p.waveform)) :
    settledVoice p V = { replaceSource (catOf (waveformOf p.waveform)) V with wf := waveformOf p.waveform } :=
  settleSource_replace V _ _ h hc

theorem settledVoice_keep (h : V.present = true) (hc : V.cat = catOf (waveformOf p.waveform)) :
    settledVoice p V = { V with wf := waveformOf p.waveform } :=
  settleSource_keep V _ _ h hc

/-- A voice exists after creation or replacement, and a voice that was there keeps all but its source. -/
theorem settledVoice_present : (settledVoice p V).present = true := by
  rcases settleSource_cases V (waveformOf p.waveform) (enabledFlag p) with ⟨_, e⟩ | ⟨h, _, e⟩ | ⟨h, _, e⟩
  · exact (congrArg Voice.present e).trans rfl
  · exact (congrArg Voice.present e).trans h
  · exact (congrArg Voice.present e).trans h

theorem settledVoice_kept (h : V.present = true) :
    (settledVoice p V).env = V.env ∧ (settledVoice p V).lfoPh = V.lfoPh ∧ (settledVoice p V).en = V.en ∧
      (settledVoice p V).pan = V.pan ∧ (settledVoice p V).lvl = V.lvl ∧ (settledVoice p V).lforate = V.lforate := by
  by_cases hc : V.cat = catOf (waveformOf p.waveform)
  · rw [settledVoice_keep p V h hc]
    exact ⟨rfl, rfl, rfl, rfl, rfl, rfl⟩
  · rw [settledVoice_replace p V h hc]
    exact ⟨rfl, rfl, rfl, rfl, rfl, rfl⟩

theorem applyVoice_lfo_fields : ∃ lforate lfoWf route amt, applyVoice cfg p V =
    { latchVoice p (enabledFlag p) (panLevelTargets cfg p (enabledFlag p) (pitchTargets cfg p (settledVoice p V))) with
      lforate := lforate, lfoWf := lfoWf, route := route, amt := amt } := by
  unfold applyVoice applyLfo connect disconnect
  dsimp only
  split
  · split <;> exact ⟨_, _, _, _, rfl⟩
  · exact ⟨_, _, _, _, rfl⟩

theorem pitchTargets_cases :
    ((settledVoice p V).cat = .tonal ∧ pitchTargets cfg p (settledVoice p V) = { settledVoice p V with
      freq := retarget (settledVoice p V).freq (baseFreq p) cfg.alphaSmooth
      det := retarget (settledVoice p V).det (cents p.detune) cfg.alphaSmooth }) ∨
    ((settledVoice p V).cat = .noise ∧ pitchTargets cfg p (settledVoice p V) = { settledVoice p V with
      rate := retarget (settledVoice p V).rate (noiseRate cfg p) cfg.alphaSmooth }) := by
  unfold pitchTargets
  split <;> rename_i h
  · exact .inl ⟨h, rfl⟩
  · exact .inr ⟨h, rfl⟩

/-- The fields of a voice after APPLY that the LFO part leaves alone. -/
theorem applyVoice_fields :
    (applyVoice cfg p V).present = (settledVoice p V).present ∧
    (applyVoice cfg p V).cat = catOf (waveformOf p.waveform) ∧
    (applyVoice cfg p V).wf = waveformOf p.waveform ∧
    (applyVoice cfg p V).en = enabledFlag p ∧
    (applyVoice cfg p V).epoch = (settledVoice p V).epoch ∧
    (applyVoice cfg p V).adsr = ⟨p.envA, p.envD, p.envS, p.envR⟩ ∧
    (applyVoice cfg p V).env = (settledVoice p V).env ∧
    (applyVoice cfg p V).lfoPh = (settledVoice p V).lfoPh ∧
    (applyVoice cfg p V).pan =
      retarget (settledVoice p V).pan (clamp (smilli p.pan) (-1) 1) cfg.alphaSmooth ∧
    (applyVoice cfg p V).lvl = retarget (settledVoice p V).lvl (levelTarget p (enabledFlag p))
      (if enabledFlag p ≠ (settledVoice p V).en then cfg.alphaFast else cfg.alphaSmooth) ∧
    (catOf (waveformOf p.waveform) = .tonal →
      (applyVoice cfg p V).freq = retarget (settledVoice p V).freq (baseFreq p) cfg.alphaSmooth ∧
      (applyVoice cfg p V).det = retarget (settledVoice p V).det (cents p.detune) cfg.alphaSmooth ∧
      (applyVoice cfg p V).rate = (settledVoice p V).rate) ∧
    (catOf (waveformOf p.waveform) = .noise →
      (applyVoice cfg p V).rate = retarget (settledVoice p V).rate (noiseRate cfg p) cfg.alphaSmooth ∧
      (applyVoice cfg p V).freq = (settledVoice p V).freq ∧
      (applyVoice cfg p V).det = (settledVoice p V).det) := by
  obtain ⟨a, b, c, d, e⟩ := applyVoice_lfo_fields cfg p V
  have hcat : (settledVoice p V).cat = catOf (waveformOf p.waveform) := settleSource_cat V _ _
  have hwf : (settledVoice p V).wf = waveformOf p.waveform := rfl
  rw [e]
  rcases pitchTargets_cases cfg p V with ⟨h, hp⟩ | ⟨h, hp⟩ <;> rw [hp] <;> rw [hcat] at h
  · exact ⟨rfl, hcat, rfl, rfl, rfl, rfl, rfl, rfl, rfl, rfl, fun _ => ⟨rfl, rfl, rfl⟩, fun k => by simp [h] at k⟩
  · exact ⟨rfl, hcat, rfl, rfl, rfl, rfl, rfl, rfl, rfl, rfl, fun k => by simp [h] at k, fun _ => ⟨rfl, rfl, rfl⟩⟩

theorem applyVoice_lforate :
    (applyVoice cfg p V).lforate =
      retarget (settledVoice p V).lforate (lfoRateTarget p.lfoRate) cfg.alphaSmooth ∧
    (applyVoice cfg p V).lfoWf = lfoWaveOf p.lfoWave := by
  have hl : (pitchTargets cfg p (settledVoice p V)).lforate = (settledVoice p V).lforate := by
    rcases pitchTargets_cases cfg p V with ⟨_, hp⟩ | ⟨_, hp⟩ <;> rw [hp]
  unfold applyVoice applyLfo connect disconnect
  dsimp only
  split
  · split <;> exact ⟨by simp only [latchVoice, panLevelTargets]; rw [hl], rfl⟩
  · exact ⟨by simp only [latchVoice, panLevelTargets]; rw [hl], rfl⟩

theorem applyVoice_route_disabled (h : enabledFlag p = false) :
    (applyVoice cfg p V).route = .none ∧ (applyVoice cfg p V).amt = 0 := by
  unfold applyVoice applyLfo connect disconnect
  simp only [latchVoice, h]
  exact ⟨rfl, rfl⟩

theorem applyVoice_route_enabled (h : enabledFlag p = true) {d : LfoTarget} (hd : lfoTargetOf? p.lfoTarget = some d) :
    (applyVoice cfg p V).route = routeTo d ∧
      (applyVoice cfg p V).amt = clamp (milli p.lfoDepth) 0 1 * fullDepth cfg d := by
  unfold applyVoice applyLfo connect disconnect
  simp only [latchVoice, h, hd]
  exact ⟨rfl, rfl⟩

theorem applyVoice_route_unselected (h : lfoTargetOf? p.lfoTarget = none) :
    (applyVoice cfg p V).route = .none ∧ (applyVoice cfg p V).amt = 0 := by
  unfold applyVoice applyLfo connect disconnect
  simp only [latchVoice, h]
  split <;> exact ⟨rfl, rfl⟩

/-- Two voices that agree field by field are equal. -/
theorem Voice.ext_fields {V W : Voice} (h1 : V.present = W.present) (h2 : V.cat = W.cat) (h3 : V.wf = W.wf)
    (h4 : V.en = W.en) (h5 : V.epoch = W.epoch) (h6 : V.freq = W.freq) (h7 : V.det = W.det) (h8 : V.rate = W.rate)
    (h9 : V.lvl = W.lvl) (h10 : V.pan = W.pan) (h11 : V.lforate = W.lforate) (h12 : V.adsr = W.adsr)
    (h13 : V.env = W.env) (h14 : V.lfoWf = W.lfoWf) (h15 : V.lfoPh = W.lfoPh) (h16 : V.route = W.route)
    (h17 : V.amt = W.amt) : V = W := by
  cases V
  cases W
  subst h1 h2 h3 h4 h5 h6 h7 h8 h9 h10 h11 h12 h13 h14 h15 h16 h17
  rfl

end Sys2Proof.Machine
end

