-- ==== Sys2Proof/Laws/Decode.lean ====
section
/-!
SUPPORT. The fields of a packed word, and what the field decoders can answer.
-/

namespace Sys2Proof

theorem opField_append (op : BitVec 4) (low : BitVec 28) : opField (op ++ low) = op := by
  unfold opField
  ext i hi
  rw [BitVec.getElem_extractLsb']
  refine (BitVec.getLsbD_append).trans ?_
  simp [hi]

theorem fields_append (op : BitVec 4) (low : BitVec 28) :
    grpField (op ++ low) = low.extractLsb' 24 4 ∧ idxField (op ++ low) = low.extractLsb' 16 8 ∧
      immField (op ++ low) = low.extractLsb' 0 16 := by
  refine ⟨?_, ?_, ?_⟩ <;>
  · apply BitVec.eq_of_getLsbD_eq
    intro i hi
    simp only [grpField, idxField, immField, BitVec.getLsbD_extractLsb']
    congr 1
    refine (BitVec.getLsbD_append).trans ?_
    rw [if_pos (by omega)]

theorem packWord_fields (op g : BitVec 4) (i : BitVec 8) (imm : Half) :
    opField (packWord op g i imm) = op ∧ grpField (packWord op g i imm) = g ∧
      idxField (packWord op g i imm) = i ∧ immField (packWord op g i imm) = imm := by
  refine ⟨?_, ?_, ?_, ?_⟩ <;>
  · apply BitVec.eq_of_getLsbD_eq
    intro k hk
    simp only [opField, grpField, idxField, immField, BitVec.getLsbD_extractLsb', hk, decide_true, Bool.true_and,
      packWord]
    refine (BitVec.getLsbD_append).trans ?_
    rw [BitVec.getLsbD_append, BitVec.getLsbD_append]
    first
      | rw [if_pos (by omega)]; congr 1; omega
      | rw [if_neg (by omega), if_pos (by omega)]; congr 1; omega
      | rw [if_neg (by omega), if_neg (by omega), if_pos (by omega)]; congr 1; omega
      | rw [if_neg (by omega), if_neg (by omega), if_neg (by omega)]; congr 1; omega

/-- A word is made of its four fields (30_encoding.md R80). -/
theorem packWord_of_fields (w : Word) : packWord (opField w) (grpField w) (idxField w) (immField w) = w := by
  apply BitVec.eq_of_getLsbD_eq
  intro k hk
  refine (BitVec.getLsbD_append).trans ?_
  rw [BitVec.getLsbD_append, BitVec.getLsbD_append]
  simp only [opField, grpField, idxField, immField, BitVec.getLsbD_extractLsb']
  split_ifs <;> (rw [show decide _ = true from decide_eq_true (by omega), Bool.true_and]; congr 1; omega)

theorem low_fields_eq_zero (low : BitVec 28) :
    (low.extractLsb' 24 4 = 0 ∧ low.extractLsb' 16 8 = 0 ∧ low.extractLsb' 0 16 = 0) ↔ low = 0 := by
  constructor
  · rintro ⟨a, b, c⟩
    apply BitVec.eq_of_getLsbD_eq
    intro i hi
    by_cases h1 : i < 16
    · have := congrArg (fun z => BitVec.getLsbD z i) c
      simpa [h1] using this
    · by_cases h2 : i < 24
      · have := congrArg (fun z => BitVec.getLsbD z (i - 16)) b
        simp only [BitVec.getLsbD_extractLsb'] at this
        rw [show 16 + (i - 16) = i by omega] at this
        simpa [show i - 16 < 8 by omega] using this
      · have := congrArg (fun z => BitVec.getLsbD z (i - 24)) a
        simp only [BitVec.getLsbD_extractLsb'] at this
        rw [show 24 + (i - 24) = i by omega] at this
        simpa [show i - 24 < 4 by omega] using this
  · rintro rfl
    decide

theorem decodeZ_append (i : Instr) (op : BitVec 4) (low : BitVec 28) :
    decodeZ i (op ++ low) = if low = 0 then .ok i else .error .mustBeZero := by
  obtain ⟨a, b, c⟩ := fields_append op low
  unfold decodeZ
  rw [a, b, c]
  simp only [low_fields_eq_zero]

theorem voiceOf?_code (v : VoiceId) : voiceOf? v.code = some v := by cases v <;> rfl

theorem voiceOf?_eq_some {g : BitVec 4} {v : VoiceId} (h : voiceOf? g = some v) : v.code = g := by
  revert g
  cases v <;> decide

theorem patchRegOf?_code (r : PatchReg) : patchRegOf? r.group r.index = some r := by
  cases r with
  | voice v r => cases v <;> cases r <;> rfl
  | effect r => cases r <;> rfl

theorem voiceRegOf?_eq_some {i : BitVec 8} {r : VoiceReg} (h : voiceRegOf? i = some r) : r.index = i := by
  revert i
  cases r <;> decide

theorem effectRegOf?_eq_some {g : BitVec 4} {i : BitVec 8} {r : EffectReg} (h : effectRegOf? g i = some r) :
    r.group = g ∧ r.index = i := by
  unfold effectRegOf? at h
  split at h <;> first
    | (cases h; done)
    | (cases h
       rename_i hg hi
       exact ⟨BitVec.eq_of_toNat_eq hg.symm, BitVec.eq_of_toNat_eq hi.symm⟩)

theorem patchRegOf?_eq_some {g : BitVec 4} {i : BitVec 8} {r : PatchReg} (h : patchRegOf? g i = some r) :
    r.group = g ∧ r.index = i := by
  unfold patchRegOf? at h
  split at h
  · rename_i v hv
    obtain ⟨q, hq, rfl⟩ := Option.map_eq_some_iff.1 h
    exact ⟨voiceOf?_eq_some hv, voiceRegOf?_eq_some hq⟩
  · obtain ⟨q, hq, rfl⟩ := Option.map_eq_some_iff.1 h
    exact effectRegOf?_eq_some hq

theorem statusRegOf?_index (r : StatusReg) : statusRegOf? r.index = some r := by cases r <;> rfl

theorem statusRegOf?_eq_some {i : BitVec 8} {r : StatusReg} (h : statusRegOf? i = some r) : r.index = i := by
  revert i
  cases r <;> decide

end Sys2Proof
end

