-- ==== Sys2Proof/Laws/Memory.lean ====
section
/-!
SUPPORT. The laws of the sample memories: read after write, the canonical form kept, and a memory written as a whole.
-/

namespace Sys2Proof.Machine

theorem memRead_nil (a : Nat) : memRead [] a = 0 := rfl

/-- A cell below every listed address reads 0. -/
theorem memRead_eq_zero_of_lt {m : SampleMem} {a : Nat} (h : ∀ p ∈ m, a < p.1) : memRead m a = 0 := by
  induction m with
  | nil => rfl
  | cons p m ih =>
    have hp := h p (by simp)
    simp only [memRead, if_neg hp.ne]
    exact ih fun q hq => h q (by simp [hq])

/-- A cell not listed reads 0. -/
theorem memRead_eq_zero_of_notMem {m : SampleMem} {a : Nat} (h : ∀ p ∈ m, p.1 ≠ a) : memRead m a = 0 := by
  induction m with
  | nil => rfl
  | cons p m ih =>
    simp only [memRead, if_neg (h p (by simp)).symm]
    exact ih fun q hq => h q (by simp [hq])

theorem memWrite_addr {m : SampleMem} {a : Nat} {x : Rat} {p : Nat × Rat} (h : p ∈ memWrite m a x) :
    p.1 = a ∨ p ∈ m := by
  induction m with
  | nil =>
    simp only [memWrite] at h
    split at h <;> simp_all
  | cons q m ih =>
    obtain ⟨b, y⟩ := q
    simp only [memWrite] at h
    split at h
    · split at h <;> aesop
    · split at h
      · split at h <;> aesop
      · rcases List.mem_cons.1 h with rfl | h
        · simp
        · rcases ih h with h | h <;> simp [h]

/-- Every memory operation keeps the canonical form: the write. -/
theorem memWf_memWrite {m : SampleMem} (a : Nat) (x : Rat) (h : memWf m) : memWf (memWrite m a x) := by
  obtain ⟨hs, hz⟩ := h
  induction m with
  | nil =>
    simp only [memWrite]
    split
    · exact ⟨List.Pairwise.nil, by simp⟩
    · exact ⟨by simp, by simpa⟩
  | cons q m ih =>
    obtain ⟨b, y⟩ := q
    have hs' := List.pairwise_cons.1 hs
    have hz' : ∀ p ∈ m, p.2 ≠ 0 := fun p hp => hz p (by simp [hp])
    have hy : y ≠ 0 := hz (b, y) (by simp)
    simp only [memWrite]
    split
    · rename_i hab
      split
      · exact ⟨hs, hz⟩
      · rename_i hx
        refine ⟨List.pairwise_cons.2 ⟨?_, hs⟩, ?_⟩
        · intro p hp
          rcases List.mem_cons.1 hp with rfl | hp
          · exact hab
          · exact hab.trans (hs'.1 p hp)
        · intro p hp
          rcases List.mem_cons.1 hp with rfl | hp
          · exact hx
          · exact hz p hp
    · rename_i hab
      split
      · rename_i he
        split
        · exact ⟨hs'.2, hz'⟩
        · rename_i hx
          refine ⟨List.pairwise_cons.2 ⟨?_, hs'.2⟩, ?_⟩
          · intro p hp; simpa [he] using hs'.1 p hp
          · intro p hp
            rcases List.mem_cons.1 hp with rfl | hp
            · exact hx
            · exact hz' p hp
      · rename_i he
        obtain ⟨is, iz⟩ := ih hs'.2 hz'
        refine ⟨List.pairwise_cons.2 ⟨?_, is⟩, ?_⟩
        · intro p hp
          rcases memWrite_addr hp with h | h
          · simp only [h]; omega
          · exact hs'.1 p h
        · intro p hp
          rcases List.mem_cons.1 hp with rfl | hp
          · exact hy
          · exact iz p hp

/-- A write leaves a memory inside its length. -/
theorem memWrite_lt {m : SampleMem} {a n : Nat} {x : Rat} (h : ∀ p ∈ m, p.1 < n) (ha : a < n) :
    ∀ p ∈ memWrite m a x, p.1 < n := by
  intro p hp
  rcases memWrite_addr hp with h' | h'
  · omega
  · exact h p h'

/-- A read after a write to the same cell gives the sample written. -/
theorem memRead_memWrite_same {m : SampleMem} (a : Nat) (x : Rat) (h : memWf m) :
    memRead (memWrite m a x) a = x := by
  induction m with
  | nil =>
    simp only [memWrite]
    split <;> simp_all [memRead]
  | cons q m ih =>
    obtain ⟨b, y⟩ := q
    obtain ⟨hs, hz⟩ := h
    have hs' := List.pairwise_cons.1 hs
    have hw : memWf m := ⟨hs'.2, fun p hp => hz p (by simp [hp])⟩
    simp only [memWrite]
    split
    · rename_i hab
      split
      · rename_i hx
        rw [hx]
        refine memRead_eq_zero_of_lt fun p hp => ?_
        rcases List.mem_cons.1 hp with rfl | hp
        · exact hab
        · exact hab.trans (hs'.1 p hp)
      · simp [memRead]
    · split
      · rename_i he
        split
        · rename_i hx
          rw [hx]
          exact memRead_eq_zero_of_lt fun p hp => by simpa [he] using hs'.1 p hp
        · simp [memRead]
      · rename_i he
        simp only [memRead, if_neg he]
        exact ih hw

/-- A write leaves every other cell alone. -/
theorem memRead_memWrite_ne (m : SampleMem) {a b : Nat} (x : Rat) (h : b ≠ a) :
    memRead (memWrite m a x) b = memRead m b := by
  induction m with
  | nil =>
    simp only [memWrite]
    split <;> simp [memRead, h]
  | cons q m ih =>
    obtain ⟨c, y⟩ := q
    simp only [memWrite]
    split
    · split <;> simp [memRead, h]
    · split
      · rename_i he
        subst he
        split <;> simp [memRead, h]
      · simp only [memRead, ih]

theorem memTable_addr {n : Nat} {f : Nat → Rat} {p : Nat × Rat} (h : p ∈ memTable n f) :
    p.1 < n ∧ p.2 = f p.1 ∧ p.2 ≠ 0 := by
  simp only [memTable, List.mem_filter, List.mem_map, List.mem_range, decide_eq_true_eq] at h
  obtain ⟨⟨i, hi, rfl⟩, hz⟩ := h
  exact ⟨hi, rfl, hz⟩

/-- Every memory operation keeps the canonical form: a memory written as a whole has it. -/
theorem memWf_memTable (n : Nat) (f : Nat → Rat) : memWf (memTable n f) := by
  refine ⟨List.Pairwise.filter _ ?_, fun p hp => (memTable_addr hp).2.2⟩
  exact List.Pairwise.map _ (fun _ _ h => h) List.pairwise_lt_range

theorem memRead_of_mem {m : SampleMem} {p : Nat × Rat} (h : memWf m) (hp : p ∈ m) : memRead m p.1 = p.2 := by
  induction m with
  | nil => simp at hp
  | cons q m ih =>
    obtain ⟨hs, hz⟩ := h
    have hs' := List.pairwise_cons.1 hs
    rcases List.mem_cons.1 hp with rfl | hp
    · simp [memRead]
    · have hlt : q.1 < p.1 := hs'.1 p hp
      simp only [memRead, if_neg hlt.ne']
      exact ih ⟨hs'.2, fun r hr => hz r (by simp [hr])⟩ hp

/-- What a memory written as a whole holds. -/
theorem memRead_memTable (n : Nat) (f : Nat → Rat) (i : Nat) :
    memRead (memTable n f) i = if i < n then f i else 0 := by
  by_cases h : i < n ∧ f i ≠ 0
  · have hm : (i, f i) ∈ memTable n f := by
      simp only [memTable, List.mem_filter, List.mem_map, List.mem_range, decide_eq_true_eq]
      exact ⟨⟨i, h.1, rfl⟩, h.2⟩
    simpa [h.1] using memRead_of_mem (memWf_memTable n f) hm
  · rw [memRead_eq_zero_of_notMem]
    · split
      · rename_i hi
        by_contra hne
        exact h ⟨hi, fun h0 => hne h0.symm⟩
      · rfl
    · rintro p hp rfl
      have := memTable_addr hp
      exact h ⟨this.1, this.2.1 ▸ this.2.2⟩

/-- Two memories in canonical form with the same contents are the same data. -/
theorem memWf_ext {m n : SampleMem} (hm : memWf m) (hn : memWf n) (h : ∀ a, memRead m a = memRead n a) : m = n := by
  induction m generalizing n with
  | nil =>
    cases n with
    | nil => rfl
    | cons q n =>
      have := h q.1
      rw [memRead_of_mem hn (by simp), memRead_nil] at this
      exact absurd this.symm (hn.2 q (by simp))
  | cons p m ih =>
    cases n with
    | nil =>
      have := h p.1
      rw [memRead_of_mem hm (by simp), memRead_nil] at this
      exact absurd this (hm.2 p (by simp))
    | cons q n =>
      have hms := List.pairwise_cons.1 hm.1
      have hns := List.pairwise_cons.1 hn.1
      have hm' : memWf m := ⟨hms.2, fun r hr => hm.2 r (by simp [hr])⟩
      have hn' : memWf n := ⟨hns.2, fun r hr => hn.2 r (by simp [hr])⟩
      have hp := memRead_of_mem hm (p := p) (by simp)
      have hq := memRead_of_mem hn (p := q) (by simp)
      have key : p.1 = q.1 := by
        rcases lt_trichotomy p.1 q.1 with hlt | he | hgt
        · have : memRead (q :: n) p.1 = 0 := memRead_eq_zero_of_lt fun r hr => by
            rcases List.mem_cons.1 hr with rfl | hr
            · exact hlt
            · exact hlt.trans (hns.1 r hr)
          rw [← h, hp] at this
          exact absurd this (hm.2 p (by simp))
        · exact he
        · have : memRead (p :: m) q.1 = 0 := memRead_eq_zero_of_lt fun r hr => by
            rcases List.mem_cons.1 hr with rfl | hr
            · exact hgt
            · exact hgt.trans (hms.1 r hr)
          rw [h, hq] at this
          exact absurd this (hn.2 q (by simp))
      have key2 : p.2 = q.2 := by rw [← hp, ← hq, h, key]
      have hpq : p = q := Prod.ext key key2
      subst hpq
      congr 1
      refine ih hm' hn' fun a => ?_
      by_cases ha : a = p.1
      · subst ha
        rw [memRead_eq_zero_of_lt hms.1, memRead_eq_zero_of_lt hns.1]
      · have := h a
        simpa [memRead, ha] using this

end Sys2Proof.Machine
end

