-- ==== Sys2Proof/Laws/PerInstr.lean ====
section
/-!
SUPPORT. Per-instruction families. `RowBits`: the encoding of an instruction has the mask and match bits of its row in
the opcode table (30_encoding.md R84).
-/

namespace Sys2Proof.Laws.RowBits

/-- The encoded word, masked as the instruction's row says, is the row's match value. -/
def Statement (i : Instr) : Prop := encode i &&& rowMask i = rowMatch i

/-- The top four bits of a packed word. -/
theorem packWord_top (op g : BitVec 4) (i : BitVec 8) (imm : Half) {k : Nat} (h : ¬k < 28) :
    (packWord op g i imm).getLsbD k = op.getLsbD (k - 28) := by
  refine (BitVec.getLsbD_append).trans ?_
  rw [BitVec.getLsbD_append, BitVec.getLsbD_append, if_neg (by omega), if_neg (by omega), if_neg (by omega)]
  congr 1

theorem nop : Statement .nop := by unfold Statement; decide

theorem wrp (r : PatchReg) (imm : Half) : Statement (.wrp r imm) := by
  have low : ∀ k < 28, (0xF0000000 : Word).getLsbD k = false ∧ (0x10000000 : Word).getLsbD k = false := by decide
  have high : ∀ k < 32, ¬k < 28 → ((1 : BitVec 4).getLsbD (k - 28) && (0xF0000000 : Word).getLsbD k) =
      (0x10000000 : Word).getLsbD k := by decide
  show packWord 1 _ _ _ &&& (0xF0000000 : Word) = 0x10000000
  apply BitVec.eq_of_getLsbD_eq
  intro k hk
  rw [BitVec.getLsbD_and]
  by_cases hh : k < 28
  · rw [(low k hh).1, (low k hh).2, Bool.and_false]
  · rw [packWord_top _ _ _ _ hh]
    exact high k hk hh

theorem rdp (r : PatchReg) : Statement (.rdp r) := by
  unfold Statement
  cases r with
  | voice v r => cases v <;> cases r <;> decide
  | effect r => cases r <;> decide

theorem rds (r : StatusReg) : Statement (.rds r) := by unfold Statement; cases r <;> decide

theorem apply : Statement .apply := by unfold Statement; decide

theorem attack (v : VoiceId) : Statement (.attack v) := by unfold Statement; cases v <;> decide

theorem release (v : VoiceId) : Statement (.release v) := by unfold Statement; cases v <;> decide

theorem start : Statement .start := by unfold Statement; decide

theorem stop : Statement .stop := by unfold Statement; decide

theorem capstart : Statement .capstart := by unfold Statement; decide

theorem capstop : Statement .capstop := by unfold Statement; decide

end Sys2Proof.Laws.RowBits
end

