-- ==== Sys2Proof/Machine/Assembler.lean ====
section
/-!
DEFINITION. The assembler's syntax, the pseudo-instructions and the test bench's directives (30_encoding.md R94, R95).
No step reads this file: it says which command words and events a line of text stands for (log 18).
-/

namespace Sys2Proof.Machine

/-- The operand names of the voice registers (30_encoding.md R94, 10_state.md R22). -/
def voiceRegNames : List (String × VoiceReg) :=
  [("waveform", .waveform), ("enabled", .enabled), ("detune", .detune), ("gain", .gain), ("octave", .octave),
    ("pan", .pan), ("env_a", .envA), ("env_d", .envD), ("env_s", .envS), ("env_r", .envR), ("lfo_wave", .lfoWave),
    ("lfo_rate", .lfoRate), ("lfo_depth", .lfoDepth), ("lfo_target", .lfoTarget)]

/-- The operand names of the effect registers, with their groups (30_encoding.md R94, 10_state.md R22). -/
def effectRegNames : List (String × PatchReg) :=
  [("filter.cutoff", .effect .cutoff), ("filter.resonance", .effect .resonance), ("filter.ftype", .effect .ftype),
    ("delay.dtime", .effect .dtime), ("delay.feedback", .effect .feedback), ("delay.dmix", .effect .dmix),
    ("reverb.decay", .effect .decay), ("reverb.rmix", .effect .rmix), ("master.mgain", .effect .mgain),
    ("master.drive", .effect .drive)]

/-- The names of the voices (30_encoding.md R94). -/
def voiceNames : List (String × VoiceId) := [("v0", .v0), ("v1", .v1), ("v2", .v2)]

/-- All register operands, `<group>.<name>` (30_encoding.md R94). -/
def regNames : List (String × PatchReg) :=
  (voiceNames.flatMap fun v => voiceRegNames.map fun r => (v.1 ++ "." ++ r.1, .voice v.2 r.2)) ++ effectRegNames

/-- The status operands (30_encoding.md R88, R94). -/
def statusNames : List (String × StatusReg) :=
  [("status", .status), ("envstate", .envstate), ("tick0", .tick0), ("tick1", .tick1), ("tick2", .tick2),
    ("tick3", .tick3), ("route", .route), ("epoch0", .epoch0), ("epoch1", .epoch1), ("epoch2", .epoch2)]

/-- The enumeration names a register's immediate may be written with (30_encoding.md R94, 10_state.md R23). -/
def immNames : PatchReg → List (String × Half)
  | .voice _ .waveform => [("sine", 0), ("triangle", 1), ("sawtooth", 2), ("square", 3), ("noise", 4)]
  | .voice _ .enabled => [("false", 0), ("true", 1)]
  | .voice _ .lfoWave => [("sine", 0), ("triangle", 1), ("sawtooth", 2), ("square", 3)]
  | .voice _ .lfoTarget => [("pitch", 0), ("cutoff", 1), ("amp", 2), ("pan", 3)]
  | .effect .ftype => [("lowpass", 0), ("highpass", 1), ("bandpass", 2), ("notch", 3), ("peaking", 4)]
  | _ => []

/-- The registers whose immediate may be negative (30_encoding.md R94). -/
def immSigned : PatchReg → Bool
  | .voice _ .detune => true
  | .voice _ .octave => true
  | .voice _ .pan => true
  | _ => false

/-- A finished token put in front, unless it is empty; it was read backwards. -/
def putToken (cur : List Char) (toks : List (List Char)) : List (List Char) :=
  if cur = [] then toks else cur.reverse :: toks

/-- The tokens of a line: runs of characters between blanks and commas, up to a comment. `cur` is the token being
read, backwards. -/
def asmTokens : List Char → List Char → List (List Char)
  | [], cur => putToken cur []
  | ch :: rest, cur =>
    if ch = ';' then putToken cur []
    else if ch = ' ' ∨ ch = ',' then putToken cur (asmTokens rest [])
    else asmTokens rest (ch :: cur)

/-- The value of a digit in a base up to 16. -/
def digitOf? (base : Nat) (ch : Char) : Option Nat :=
  let n := ch.toNat
  let d :=
    if 48 ≤ n ∧ n ≤ 57 then n - 48
    else if 65 ≤ n ∧ n ≤ 70 then n - 55
    else if 97 ≤ n ∧ n ≤ 102 then n - 87
    else 16
  if d < base then some d else none

/-- The number digits stand for, at least one of them. -/
def digitsOf? (base : Nat) : List Char → Option Nat
  | [] => none
  | ds => ds.foldl (fun acc ch => acc.bind fun n => (digitOf? base ch).map fun d => n * base + d) (some 0)

/-- A numeric immediate: decimal, `0x` hexadecimal, or negative decimal in two's complement (30_encoding.md R94). A
number that does not fit in 16 bits is none. -/
def immNumber? (r : PatchReg) (tok : List Char) : Option Half :=
  match tok with
  | '0' :: 'x' :: ds => (digitsOf? 16 ds).bind fun n => if n < 65536 then some (BitVec.ofNat 16 n) else none
  | '-' :: ds =>
    if immSigned r then
      (digitsOf? 10 ds).bind fun n => if n ≤ 32768 then some (BitVec.ofInt 16 (-(n : Int))) else none
    else none
  | ds => (digitsOf? 10 ds).bind fun n => if n < 65536 then some (BitVec.ofNat 16 n) else none

/-- An immediate: an enumeration name of the register, or a number (30_encoding.md R94). -/
def immOf? (r : PatchReg) (tok : List Char) : Option Half :=
  match (immNames r).lookup (String.ofList tok) with
  | some x => some x
  | none => immNumber? r tok

/-- The value a token names. -/
def named? {α : Type} (names : List (String × α)) (tok : List Char) : Option α := names.lookup (String.ofList tok)

/-- The commands without operands (30_encoding.md R84, R94). -/
def plainCommands : List (String × Instr) :=
  [("NOP", .nop), ("APPLY", .apply), ("START", .start), ("STOP", .stop), ("CAPSTART", .capstart),
    ("CAPSTOP", .capstop)]

/-- The commands on a voice; `NOTEON v` is `ATTACK v`, `NOTEOFF v` is `RELEASE v` (30_encoding.md R84, R95). -/
def voiceCommands : List (String × (VoiceId → Instr)) :=
  [("ATTACK", .attack), ("RELEASE", .release), ("NOTEON", .attack), ("NOTEOFF", .release)]

/-- A command with one operand. -/
def unaryCommand? (mnemonic operand : List Char) : Option Instr :=
  match named? voiceCommands mnemonic with
  | some mk => (named? voiceNames operand).map mk
  | none =>
    if String.ofList mnemonic = "RDP" then (named? regNames operand).map .rdp
    else if String.ofList mnemonic = "RDS" then (named? statusNames operand).map .rds
    else none

/-- The command a list of tokens stands for (30_encoding.md R94, R95). -/
def asmCommand? : List (List Char) → Option Instr
  | [mnemonic] => named? plainCommands mnemonic
  | [mnemonic, operand] => unaryCommand? mnemonic operand
  | [mnemonic, reg, imm] =>
    if String.ofList mnemonic = "WRP" then (named? regNames reg).bind fun r => (immOf? r imm).map (.wrp r) else none
  | _ => none

/-- One line of assembler text, as characters, as a command (30_encoding.md R94). -/
def assembleChars? (line : List Char) : Option Instr := asmCommand? (asmTokens line [])

/-- One line of assembler text as a command (30_encoding.md R94). -/
def assemble? (line : String) : Option Instr := assembleChars? line.toList

/-- `PATCH` with its items: one `WRP` per item in the order written, and no `APPLY` (30_encoding.md R95). -/
def expandPatch (items : List (PatchReg × Half)) : List Instr := items.map fun p => .wrp p.1 p.2

/-- The events by which a host has one command word executed (30_encoding.md R95, 40_commands.md R101). -/
def commandEvents (w : Word) : List HostEvent := [.push w, .command]

/-- `TICK n, src = (s0, s1, s2)`: `n` pulses with constant samples, 0 where none are given (30_encoding.md R95). -/
def tickEvents (n : Nat) (src : Triple Rat := ⟨0, 0, 0⟩) : List HostEvent := List.replicate n (.tick src)

/-- `RESET` (30_encoding.md R95). -/
def resetEvents : List HostEvent := [.rst]

end Sys2Proof.Machine
end

