-- ==== Sys2Proof/Tests/Slice0.lean ====
section
/-!
SUPPORT. Tests, their expected results taken from 95_test_vectors.md and the examples of the rules, and one theorem for
each statement that has hypotheses, showing that they can be met together.
-/

open Sys2Proof Sys2Proof.Machine Sys2Proof.Claims

namespace Sys2Proof.Tests

/-! ### Well-formedness: one ill-formed term for each check (40_commands.md R104) -/

theorem test_wf_waveform : (Instr.wrp (.voice .v0 .waveform) 5).wellFormed = false := by decide
theorem test_wf_enabled : (Instr.wrp (.voice .v1 .enabled) 2).wellFormed = false := by decide
theorem test_wf_lfo_wave : (Instr.wrp (.voice .v2 .lfoWave) 4).wellFormed = false := by decide
theorem test_wf_lfo_target : (Instr.wrp (.voice .v0 .lfoTarget) 4).wellFormed = false := by decide
theorem test_wf_ftype : (Instr.wrp (.effect .ftype) 5).wellFormed = false := by decide
theorem test_wf_legal : (Instr.wrp (.effect .ftype) 4).wellFormed = true := by decide
theorem test_wf_continuous : (Instr.wrp (.effect .drive) 65535).wellFormed = true := by decide

/-! ### Decoding: every constructor from a word written out by hand (30_encoding.md R84 to R88, 95_test_vectors.md G1) -/

theorem test_decode_nop : decode 0b00000000000000000000000000000000 = .ok .nop := by decide
theorem test_decode_wrp : decode 0b00010000000000101111101101010000 = .ok (.wrp (.voice .v0 .detune) (-1200)) := by
  decide
theorem test_decode_wrp_effect : decode 0b00011000000000000100111000100000 = .ok (.wrp (.effect .cutoff) 20000) := by
  decide
theorem test_decode_rdp : decode 0b00101001000000010000000000000000 = .ok (.rdp (.effect .feedback)) := by decide
theorem test_decode_rds : decode 0b00110000000010100000000000000000 = .ok (.rds .epoch2) := by decide
theorem test_decode_apply : decode 0b01000000000000000000000000000000 = .ok .apply := by decide
theorem test_decode_attack : decode 0b01010010000000000000000000000000 = .ok (.attack .v2) := by decide
theorem test_decode_release : decode 0b01100001000000000000000000000000 = .ok (.release .v1) := by decide
theorem test_decode_start : decode 0b01110000000000000000000000000000 = .ok .start := by decide
theorem test_decode_stop : decode 0b10000000000000000000000000000000 = .ok .stop := by decide
theorem test_decode_capstart : decode 0b10010000000000000000000000000000 = .ok .capstart := by decide
theorem test_decode_capstop : decode 0b10100000000000000000000000000000 = .ok .capstop := by decide

/-- Whether the decoder refuses a word. -/
def refused (w : Word) : Bool :=
  match decode w with
  | .ok _ => false
  | .error _ => true

/-- The illegal words of 95_test_vectors.md G1.2 to G1.35. -/
theorem test_decode_illegal : [0x00000001, 0x10000005, 0x10010002, 0x100E0000, 0x13000000, 0x18030000, 0x1A020000,
    0x20050001, 0x2C000000, 0x30070000, 0x300B0000, 0x31000000, 0x30000001, 0x40000001, 0x53000000, 0x50010000,
    0x78000000, 0xA0000100, 0xB0000000, 0xF0000000, 0xFFFFFFFF].all refused = true := by decide +kernel

/-- A transport sends the least significant byte first (20_memory.md R66); the table numbers bits from the first
byte's least significant bit. -/
theorem test_decode_table_word : decodeTableWord 32 0x1002FB50 = some (.wrp (.voice .v0 .detune) (-1200)) ∧
    decodeBytes [0x50, 0xFB, 0x02, 0x10] = some (.ok (.wrp (.voice .v0 .detune) (-1200)), []) := by decide

/-- 20_memory.md R66: a register value goes low byte first, a frame left sample first. -/
theorem test_byte_order : halfBytes 0xFC18 = [0x18, 0xFC] ∧ readHalf [0x18, 0xFC] = some (0xFC18, []) ∧
    readWord [0x78, 0x56, 0x34, 0x12] = some (0x12345678, []) ∧ frameSamples ⟨1, 2⟩ = [1, 2] := by decide

/-! ### Assembler text (30_encoding.md R94, 95_test_vectors.md section 2) -/

theorem test_asm_signed : (assemble? "WRP v0.pan, -1000").map encode = some 0x1005FC18 := by decide +kernel
theorem test_asm_named : (assemble? "WRP v2.lfo_target, pan ; comment").map encode = some 0x120D0003 := by decide +kernel
theorem test_asm_status : (assemble? "RDS epoch1").map encode = some 0x30090000 := by decide +kernel
theorem test_asm_noteon : (assemble? "NOTEON v1").map encode = some 0x51000000 := by decide +kernel

/-! ### One step from a small state -/

/-- The state after one step that fetches `w`. -/
def run1 (w : Nat) (s : State) : State :=
  match step (s.withFetchWord 32 w) with
  | .next t => t
  | _ => s

/-- Just started (40_commands.md R107). -/
def running : State := { State.reset with run := .running }

/-- Just stopped, with `t = 100` (40_commands.md R108). -/
def suspended : State := { State.reset with run := .suspended, t := 100 }

theorem test_nop : (run1 0x00000000 running).rq = [0x00000000] ∧ (run1 0x00000000 running).errIll = false := by
  decide +kernel

/-- 95_test_vectors.md G1.2. -/
theorem test_nop_illegal : (run1 0x00000001 State.reset).rq = [0x10000000] ∧
    statusWord (run1 0x00000001 State.reset) = 0x0020 := by decide +kernel

/-- 95_test_vectors.md G2. -/
theorem test_wrp_stores : (run1 0x10000003 State.reset).patch.read (.voice .v0 .waveform) = 3 ∧
    (run1 0x10000003 State.reset).rq = [0x00000000] := by decide +kernel

/-- 95_test_vectors.md G2: the register keeps 3. -/
theorem test_wrp_illegal_keeps :
    (run1 0x10000005 (run1 0x10000003 State.reset)).patch.read (.voice .v0 .waveform) = 3 ∧
    (run1 0x10000005 (run1 0x10000003 State.reset)).rq = [0x00000000, 0x10000000] := by decide +kernel

/-- The example of 40_commands.md R105. -/
theorem test_rdp : (run1 0x20050000 (run1 0x1005FC18 running)).rq = [0x00000000, 0x0000FC18] := by decide +kernel

/-- G1.13: RDP with a non-zero immediate. -/
theorem test_rdp_illegal : (run1 0x20050001 running).rq = [0x10000000] := by decide +kernel

/-- 95_test_vectors.md P5: RUN 1, CAP, TAP, ERR_CAP. -/
theorem test_rds_status :
    (run1 0x30000000 { running with cap := .recording, tapCreated := true, errCap := true }).rq = [0x0000004D] := by
  decide +kernel

/-- 95_test_vectors.md G4: `t = 65536`. -/
theorem test_rds_tick1 : (run1 0x30030000 { running with t := 65536 }).rq = [0x00000001] := by decide +kernel

/-- G1.27. -/
theorem test_start : statusWord (run1 0x70000000 State.reset) = 0x0001 := by decide +kernel

/-- The example of 40_commands.md R108: START after STOP finds `t` where it was. -/
theorem test_start_resumes : (run1 0x70000000 suspended).run = .running ∧ (run1 0x70000000 suspended).t = 100 := by
  decide +kernel

theorem test_stop : statusWord (run1 0x80000000 { running with t := 100 }) = 0x0002 ∧
    (run1 0x80000000 { running with t := 100 }).t = 100 := by decide +kernel

/-- 60_exceptions.md R245: the outputs are idle at once, before any tick pulse. -/
theorem test_stop_idle :
    let s := { running with ports := { Ports.reset with out := ⟨1, 0⟩, outValid := true, capFrame := some ⟨1, 0⟩ } }
    (run1 0x80000000 s).ports = Ports.reset := by decide +kernel

/-- G1.29: no-op in UNINIT. -/
theorem test_stop_uninit : statusWord (run1 0x80000000 State.reset) = 0x0000 := by decide +kernel

/-- The example of 46_capture_sink.md R222. -/
theorem test_capstart : statusWord (run1 0x90000000 running) = 0x000D := by decide +kernel

/-- G1.30: silent no-op in UNINIT. -/
theorem test_capstart_uninit : statusWord (run1 0x90000000 State.reset) = 0x0000 ∧
    (run1 0x90000000 State.reset).rq = [0x00000000] := by decide +kernel

/-- The example of 46_capture_sink.md R223. -/
theorem test_capstop_idle : statusWord (run1 0xA0000000 State.reset) = 0x0040 ∧
    (run1 0xA0000000 State.reset).rq = [0x20000000] := by decide +kernel

theorem test_capstop_delivers :
    (run1 0xA0000000 { running with cap := .recording, recBuf := [⟨1 / 2, 0⟩, ⟨0, 0⟩] }).delivered =
      [[⟨1 / 2, 0⟩, ⟨0, 0⟩]] := by decide +kernel

/-! ### APPLY, triggers and a tick under the test instances of 95_test_vectors.md section 0 -/

/-- `BQ_ID`, everything else the default. -/
def bqId : Config := { Config.default with biquadCoef := fun _ _ _ _ => ⟨1, 0, 0, 0, 0⟩, fs_default := fun _ => by decide }

/-- `BQ_T`. -/
def bqT : Config := { Config.default with
  biquadCoef := fun _ _ _ _ => ⟨1 / 4, 1 / 2, 1 / 4, -1 / 2, 1 / 4⟩, fs_default := fun _ => by decide }

/-- `WS5`. -/
def ws5 : Config := { Config.default with
  wsN := 5, wsN_ge := by norm_num, piQ := 3, piQ_pos := by norm_num, fs_default := fun _ => by decide }

/-- The staged bank of program P1. -/
def patchP1 : Patch := { Patch.reset with
  voices := { Patch.reset.voices with v0 := { VoicePatch.reset with
    enabled := 1, gain := 500, octave := 1, pan := -1000, envA := 10, envD := 20, envS := 500, envR := 10
    lfoRate := 1000 } }
  cutoff := 20000
  mgain := 1000 }

/-- The end state of program P1 before its ticks: the voice, the route, the status words. -/
theorem test_apply_p1 :
    let t := reconcile bqId { running with patch := patchP1 }
    t.voices.v0.lvl.cur = 1 / 2 ∧ t.voices.v0.pan.cur = -1 ∧ t.voices.v0.freq.cur = 6541 / 50 ∧
      t.fx.mgain.cur = 1 ∧ t.fx.irLen = 48 ∧ statusWord t = 0x0711 ∧ envStateWord t = 0x0333 ∧
      routeWord t = 0x0001 := by decide +kernel

/-- Scenario S9 of 95_test_vectors.md: a noise voice with octave 0 and detune 1200 has rate exactly 2. -/
theorem test_apply_noise_rate :
    (applyVoice Config.default { VoicePatch.reset with waveform := 4, detune := 1200 } Voice.reset).rate.cur = 2 := by
  decide +kernel

/-- A voice as APPLY leaves it, with level 1/2 and hard left, the ADSR registers of 43_envelope.md R155's example. -/
def heldVoice : Voice := { Voice.reset with
  present := true, epoch := 1, adsr := ⟨10, 20, 500, 10⟩
  freq := loaded 1 (1 / 2), det := loaded 0 (1 / 2), lvl := loaded (1 / 2) (1 / 2), pan := loaded (-1) (1 / 2)
  lforate := loaded 1 (1 / 2) }

/-- A running engine with that voice, the other two at level 0, unity gain and an empty bus. -/
def heldState : State := { running with
  voices := ⟨heldVoice, { heldVoice with lvl := loaded 0 (1 / 2) }, { heldVoice with lvl := loaded 0 (1 / 2) }⟩
  fx := { Effects.reset with
    fxv := true, fc := loaded 20000 (1 / 2), fq := loaded 0 (1 / 2), dtime := loaded 0 (1 / 2)
    dfb := loaded (1 / 2) (1 / 2), dmix := loaded 0 (1 / 2), rmix := loaded 0 (1 / 2), mgain := loaded 1 (1 / 2) }
  lut := identityTable Config.default
  t := 1000 }

/-- The example of 43_envelope.md R155. -/
theorem test_attack : (trigger (attackSchedule Config.default) .v0 heldState).voices.v0.env =
    .ad 1000 1 480 960 (1 / 2) := by decide +kernel

/-- G1.23: silent no-op in UNINIT. -/
theorem test_attack_uninit : (run1 0x52000000 State.reset).rq = [0x00000000] ∧
    (run1 0x52000000 State.reset).voices = State.reset.voices := by decide +kernel

/-- The example of 43_envelope.md R159: a release in mid-attack starts from 1/2. -/
theorem test_release :
    let V := { heldVoice with env := .ad 1000 0 480 960 (1 / 2) }
    let E := releaseSchedule Config.default V.adsr V.env 1240
    E = .rel 1240 (1 / 2) 480 ∧ envVal E 1240 = 1 / 2 ∧ envVal E 1480 = 1 / 4 ∧ envVal E 1720 = 0 := by
  decide +kernel

/-- G1.26: silent no-op in UNINIT. -/
theorem test_release_uninit : (run1 0x62000000 State.reset).rq = [0x00000000] := by decide +kernel

/-- Tick 0 of program P1: the frame, the detector, the cells written. -/
theorem test_tick_dry :
    let t := tickEvent bqId ⟨1, 0, 0⟩ heldState
    t.ports.out = ⟨1 / 2, 0⟩ ∧ t.limE = 1 / 4 ∧ memRead t.dl.left 1000 = 1 / 2 ∧ t.dl.right = [] ∧
      t.filt.left = ⟨1 / 2, 0, 1 / 2, 0⟩ ∧ t.t = 1001 := by decide +kernel

/-- The output of the section `BQ_T` by the formula of 44_effects_bus.md R181, worked by hand:
2 + 1/2 + 1/2 + 3/2 - 1. -/
theorem test_section : sectionOut (bqT.biquadCoef .lowpass 20 0 48000) ⟨1, 2, 3, 4⟩ 8 = 7 / 2 := by decide +kernel

/-- The example of 45_curve_generators.md R210. -/
theorem test_curve : curve ws5 3 (1 / 2) = 2 / 9 := by decide +kernel

/-- 95_test_vectors.md L2. -/
theorem test_lim_curve : defaultLimCurve (1 / 2) 0 4 2 = 7 / 16 ∧ defaultLimCurve (1 / 2) (1 / 2) 4 (3 / 8) = 31 / 32 := by
  decide +kernel

/-- Chunks of three frames, the last one shorter (46_capture_sink.md R226). -/
theorem test_chunks : chunksUpTo 3 4 [⟨1, 0⟩, ⟨2, 0⟩, ⟨3, 0⟩, ⟨4, 0⟩] = [[⟨1, 0⟩, ⟨2, 0⟩, ⟨3, 0⟩], [⟨4, 0⟩]] := by
  decide +kernel

/-! ### Witnesses: for each statement with hypotheses, a state and operands that meet them together

A clause whose only hypothesis is that low bits are not all 0 is met by `1`, one bit above the boundary. -/

/-- A smoother that stands at its target. -/
abbrev still (x : Rat) : Smoother := loaded x (1 / 2)

/-- A tonal voice as APPLY leaves it; `junk` is what its unused pitch smoother holds, which no rule reads. -/
def voiceAt (junk : Rat) : Voice := { Voice.reset with
  present := true, epoch := 1, adsr := ⟨65535, 65535, 500, 65535⟩
  freq := still 1, det := still 0, rate := { Smoother.reset with cur := junk }, lvl := still (1 / 2), pan := still (-1)
  lforate := still 1 }

/-- A running engine after an APPLY, its impulse response the shortest the build allows. -/
def live (junk : Rat) : State := { running with
  voices := ⟨voiceAt junk, voiceAt junk, voiceAt junk⟩
  fx := { Effects.reset with
    fxv := true, fc := still 20, fq := still 0, dtime := still 0, dfb := still 0, dmix := still 0, rmix := still 0
    mgain := still 1, irMs := some Config.build.revMinMs, irLen := impulseLen Config.build Config.build.revMinMs
    syn := 1 }
  t := 5 }

/-- The same engine with noise voices. -/
def liveNoise : State := { live 0 with
  voices := .each fun _ => { voiceAt 0 with
    cat := .noise, wf := .noise, freq := Smoother.reset, det := Smoother.reset, rate := still 1 } }

theorem still_in {lo hi x : Rat} (h0 : lo ≤ x) (h1 : x ≤ hi) : SmootherIn lo hi (still x) :=
  ⟨rfl, by norm_num [loaded], by norm_num [loaded], h0, h1, h0, h1⟩

theorem voiceAt_ok (junk : Rat) : VoiceOk 5 (voiceAt junk) where
  epoch_pos := le_refl 1
  cat_wf := rfl
  pitch := ⟨⟨rfl, by norm_num [voiceAt, loaded], by norm_num [voiceAt, loaded], by norm_num [voiceAt, loaded],
    by norm_num [voiceAt, loaded]⟩, still_in (by norm_num) (by norm_num), rfl⟩
  lvl := still_in (by norm_num) (by norm_num)
  pan := still_in (by norm_num) (by norm_num)
  lforate := still_in (by norm_num) (by norm_num)
  env := ⟨zero_le_one, le_refl 1⟩
  phase_ge := le_refl 0
  phase_lt := zero_lt_one
  route_en := ⟨fun _ => rfl, fun _ => rfl⟩
  amt_ge := le_refl 0
  amt_le := le_refl 0

theorem live_effects (junk : Rat) : EffectsOk (live junk).fx where
  fc := still_in (by norm_num) (by norm_num)
  fq := still_in (by norm_num) (by norm_num)
  dtime := still_in (by norm_num) (by positivity)
  dfb := still_in (by norm_num) (by norm_num)
  dmix := still_in (by norm_num) (by norm_num)
  rmix := still_in (by norm_num) (by norm_num)
  mgain := still_in (by norm_num) (by norm_num)
  k_ge := le_refl 0
  k_le := Config.build.wsKMax_pos.le
  syn_pos := le_refl 1
  impulse := ⟨_, rfl, le_refl _, Config.build.revMinMs_le, rfl⟩

theorem live_voice (junk : Rat) (v : VoiceId) : (live junk).voices.get v = voiceAt junk := by cases v <;> rfl

/-- The invariant of the block holds of a state in the middle of a run. -/
theorem live_inv (junk : Rat) : BlockInv (live junk) where
  patch r := by
    cases r with
    | voice v r => cases v <;> cases r <;> rfl
    | effect r => cases r <;> rfl
  dl c := by cases c <;> exact ⟨⟨List.Pairwise.nil, fun _ h => nomatch h⟩, fun _ h => nomatch h⟩
  rh c := by cases c <;> exact ⟨⟨List.Pairwise.nil, fun _ h => nomatch h⟩, fun _ h => nomatch h⟩
  ir c := by cases c <;> exact ⟨⟨List.Pairwise.nil, fun _ h => nomatch h⟩, fun _ h => nomatch h⟩
  irLen_le := impulseLen_le _ Config.build.revMinMs_le
  lut := ⟨memWf_memTable _ _, fun _ h => (memTable_addr h).1⟩
  limE := le_refl 0
  present v := by cases v <;> rfl
  uninit h := nomatch h
  voice v _ := by rw [live_voice]; exact voiceAt_ok junk
  absent _ h := nomatch h
  effects _ := live_effects junk
  effects_unset h := nomatch h
  recording h := nomatch h
  idle _ := rfl
  idle_ports h := absurd rfl h

/-- Every instruction answers a next state, whatever the state. -/
theorem exec_answers (i : Instr) (s : State) : ∃ t, exec i s = .next t := by
  cases i <;> simp only [exec]
  case wrp r x => unfold execWrp; split_ifs <;> exact ⟨_, rfl⟩
  case capstop => unfold execCapstop; split <;> exact ⟨_, rfl⟩
  all_goals exact ⟨_, rfl⟩

theorem execWord_answers (w : Word) (s : State) : ∃ t, execWord w s = .next t := by
  unfold execWord
  split
  · exact exec_answers _ s
  · exact ⟨_, rfl⟩

/-- The control agent's turn with one legal word left. -/
theorem command_runs {s t : State} {w : Word} {i : Instr} (hq : s.cq = [w]) (hd : decode w = .ok i)
    (h : exec i { s with cq := [] } = .next t) : runEvent .command s = .next t :=
  (controlStep_cons hq).trans ((execWord_ok hd _).trans h)

theorem witness_NopRule : (1 : BitVec 28) ≠ 0 := by decide

/-- Each clause of the immediate check at its boundary; a reserved group, a reserved index of a voice group, and one of
the filter group. -/
theorem witness_WrpRule :
    (¬badImm (.voice .v0 .waveform) 4 ∧ badImm (.voice .v0 .waveform) 5) ∧
    (¬badImm (.voice .v1 .enabled) 1 ∧ badImm (.voice .v1 .enabled) 2) ∧
    (¬badImm (.voice .v2 .lfoWave) 3 ∧ badImm (.voice .v2 .lfoWave) 4) ∧
    (¬badImm (.voice .v0 .lfoTarget) 3 ∧ badImm (.voice .v0 .lfoTarget) 4) ∧
    (¬badImm (.effect .ftype) 4 ∧ badImm (.effect .ftype) 5) ∧ ¬badImm (.effect .drive) 65535 ∧
    ∀ r : PatchReg, (r.group = 3 → r.index ≠ 0) ∧ (r.group = 0 → r.index ≠ 14) ∧ (r.group = 8 → r.index ≠ 3) := by
  refine ⟨?_, ?_, ?_, ?_, ?_, fun h => h, fun r => ?_⟩
  iterate 5 · unfold badImm; decide
  cases r with
  | voice v r => cases v <;> cases r <;> decide
  | effect r => cases r <;> decide

theorem witness_RdpRule : (PatchReg.effect .feedback).group = 9 ∧ (PatchReg.effect .feedback).index = 1 ∧
    (1 : Half) ≠ 0 ∧ (∀ r : PatchReg, r.group = 12 → r.index ≠ 0) ∧
    ∀ r ∈ [PatchReg.voice .v0 .waveform, .effect .ftype], ¬badImm r ((fun _ => 4) r) := by
  refine ⟨rfl, rfl, by decide, fun r => ?_, ?_⟩
  · cases r with
    | voice v r => cases v <;> cases r <;> decide
    | effect r => cases r <;> decide
  · intro r h
    simp only [List.mem_cons, List.not_mem_nil, or_false] at h
    rcases h with rfl | rfl <;> unfold badImm <;> decide

theorem witness_RdsRule : StatusReg.epoch2.index = 10 ∧ (1 : BitVec 4) ≠ 0 ∧ (1 : Half) ≠ 0 ∧
    (7 : BitVec 8).toNat ∉ [0, 1, 2, 3, 4, 5, 6, 8, 9, 10] ∧
    (11 : BitVec 8).toNat ∉ [0, 1, 2, 3, 4, 5, 6, 8, 9, 10] := by decide

theorem witness_EnvstateFields : (State.reset.voices.get .v0).present = false ∧
    ((live 0).voices.get .v0).present = true := ⟨rfl, rfl⟩

theorem witness_CounterFields : (∃ t, exec .apply (live 0) = .next t) ∧
    ∀ v, ((live 0).voices.get v).present = true ∧
      ((live 0).voices.get v).cat = catOf (waveformOf ((live 0).patch.read (.voice v .waveform))) :=
  ⟨⟨_, rfl⟩, fun v => by cases v <;> exact ⟨rfl, rfl⟩⟩

theorem witness_RouteFields : (live 0).run ≠ .uninit ∧ (∃ t, exec .apply (live 0) = .next t) ∧
    (live 0).patch.read (.voice .v0 .enabled) = 0 := ⟨by decide, ⟨_, rfl⟩, rfl⟩

theorem witness_StartRule : (1 : BitVec 28) ≠ 0 := by decide

theorem witness_StopRule : running.run = .running ∧ State.reset.run ≠ .running ∧ suspended.run ≠ .running := by decide

theorem witness_RunStateTable : State.reset.run = .uninit ∧ State.reset.cap = .idle ∧ running.run = .running ∧
    suspended.run = .suspended ∧ ∀ i : Instr, i.wellFormed = true → encode i ≠ 0xF0000000 := by
  refine ⟨rfl, rfl, rfl, rfl, fun i _ h => ?_⟩
  have ho : opField (encode i) = 15 := by rw [h]; decide
  cases i <;> simp [encode, packWord_fields] at ho

theorem witness_SuspendedLikeRunning : (live 0).run = .running ∧ Instr.apply ≠ .start ∧ Instr.apply ≠ .stop ∧
    Instr.apply ≠ .rds .status ∧ suspended.run = .suspended := by decide

theorem witness_ApplyRule : State.reset.run = .uninit ∧ (live 0).run ≠ .uninit ∧
    ((live 0).voices.get .v0).present = true ∧ (1 : BitVec 28) ≠ 0 := by decide

/-- The tonal clause with the reset bank, the noise clause with a staged noise waveform. -/
theorem witness_ApplyCreatesVoice : running.run ≠ .uninit ∧ (running.voices.get .v0).present = false ∧
    (∃ t, exec .apply running = .next t ∧ (t.voices.get .v0).cat = .tonal) ∧
    ∃ t, exec .apply { running with patch := running.patch.write (.voice .v0 .waveform) 4 } = .next t ∧
      (t.voices.get .v0).cat = .noise := by
  refine ⟨by decide, rfl, ⟨_, rfl, ?_⟩, _, rfl, ?_⟩
  · exact (congrArg Voice.cat (reconcile_voice _ running .v0)).trans (applyVoice_fields _ _ _).2.1
  · exact (congrArg Voice.cat (reconcile_voice _ { running with patch := _ } .v0)).trans (applyVoice_fields _ _ _).2.1

/-- A tonal voice with a staged noise waveform, and a noise voice with a staged sine. -/
theorem witness_ApplyReplacesSource :
    let s := { live 0 with patch := (live 0).patch.write (.voice .v0 .waveform) 4 }
    s.run ≠ .uninit ∧ (∃ t, exec .apply s = .next t) ∧ (s.voices.get .v0).present = true ∧
      (s.voices.get .v0).cat ≠ catOf (waveformOf (s.patch.voices.get .v0).waveform) ∧
      (s.voices.get .v0).lvl.valid = true ∧ (s.voices.get .v0).pan.valid = true ∧
      (s.voices.get .v0).lforate.valid = true ∧ (liveNoise.voices.get .v0).cat = .noise ∧
      catOf (waveformOf (liveNoise.patch.voices.get .v0).waveform) = .tonal :=
  ⟨by decide, ⟨_, rfl⟩, rfl, by decide, rfl, rfl, rfl, rfl, rfl⟩

theorem witness_ApplyKeepsIdentity : (live 0).run ≠ .uninit ∧ (∃ t, exec .apply (live 0) = .next t) ∧
    ((live 0).voices.get .v0).present = true ∧
    (((live 0).voices.get .v0).cat = .noise ↔ (live 0).patch.read (.voice .v0 .waveform) = 4) ∧
    (live 0).patch.read (.voice .v0 .waveform) = 0 ∧
    ∀ w ∈ [(1 : Nat), 2, 3, 4],
      (Patch.reset.write (.voice .v0 .waveform) (BitVec.ofNat 16 w)).read (.voice .v0 .waveform) =
        BitVec.ofNat 16 w :=
  ⟨by decide, ⟨_, rfl⟩, rfl, by decide, rfl, fun _ _ => rfl⟩

theorem witness_ApplyPitchTargets : (live 0).run ≠ .uninit ∧ (∃ t, exec .apply (live 0) = .next t) ∧
    ((live 0).voices.get .v0).present = true ∧ ((live 0).voices.get .v0).cat = .tonal ∧
    ((live 0).voices.get .v0).cat = catOf (waveformOf ((live 0).patch.voices.get .v0).waveform) ∧
    ∃ s : State, s.run ≠ .uninit ∧ (s.voices.get .v0).present = true ∧ (s.voices.get .v0).cat = .noise ∧
      (s.voices.get .v0).cat = catOf (waveformOf (s.patch.voices.get .v0).waveform) :=
  ⟨by decide, ⟨_, rfl⟩, rfl, rfl, rfl,
    { liveNoise with patch := liveNoise.patch.write (.voice .v0 .waveform) 4 }, by decide, rfl, rfl, rfl⟩

theorem witness_ApplyPanAndLevel : (live 0).run ≠ .uninit ∧ (∃ t, exec .apply (live 0) = .next t) ∧
    ((live 0).voices.get .v0).present = true ∧ running.run ≠ .uninit ∧ (∃ t, exec .apply running = .next t) ∧
    (running.voices.get .v0).present = false := ⟨by decide, ⟨_, rfl⟩, rfl, by decide, ⟨_, rfl⟩, rfl⟩

/-- Disabled, and enabled with the last destination and the last waveform. -/
theorem witness_ApplyLfo :
    let s := { live 0 with
      patch := (((live 0).patch.write (.voice .v0 .enabled) 1).write (.voice .v0 .lfoTarget) 3).write
        (.voice .v0 .lfoWave) 3 }
    (live 0).run ≠ .uninit ∧ (∃ t, exec .apply (live 0) = .next t) ∧ ((live 0).patch.voices.get .v0).enabled ≠ 1 ∧
      s.run ≠ .uninit ∧ (∃ t, exec .apply s = .next t) ∧ (s.patch.voices.get .v0).enabled = 1 ∧
      (s.patch.voices.get .v0).lfoTarget = 3 ∧ (s.patch.voices.get .v0).lfoWave = 3 ∧
      (s.voices.get .v0).present = true ∧ (s.voices.get .v0).lforate.valid = true ∧
      (running.voices.get .v0).present = false :=
  ⟨by decide, ⟨_, rfl⟩, by decide, by decide, ⟨_, rfl⟩, rfl, rfl, rfl, rfl, rfl, rfl⟩

theorem witness_ApplyEffectTargets : (live 0).run ≠ .uninit ∧ (∃ t, exec .apply (live 0) = .next t) ∧
    (live 0).patch.ftype = 0 ∧ ((live 0).patch.write (.effect .ftype) 4).ftype = 4 ∧
    SmootherIn 0 (19 / 20) (live 0).fx.dfb ∧ running.fx.dfb.valid = false :=
  ⟨by decide, ⟨_, rfl⟩, rfl, rfl, (live_effects 0).dfb, rfl⟩

/-- A response kept and a response due. -/
theorem witness_ApplyImpulse : (live 0).run ≠ .uninit ∧ (∃ t, exec .apply (live 0) = .next t) ∧
    (live 0).fx.irMs =
      some (min (max (live 0).patch.decay.toNat Config.build.revMinMs) Config.build.revMaxMs) ∧
    running.run ≠ .uninit ∧ (∃ t, exec .apply running = .next t) ∧
    running.fx.irMs ≠ some (min (max running.patch.decay.toNat Config.build.revMinMs) Config.build.revMaxMs) := by
  refine ⟨by decide, ⟨_, rfl⟩, ?_, by decide, ⟨_, rfl⟩, fun h => nomatch h⟩
  have h := Config.build.revMinMs_le
  show some Config.build.revMinMs = some (min (max 0 Config.build.revMinMs) Config.build.revMaxMs)
  rw [Nat.zero_max, Nat.min_eq_left h]

theorem witness_ApplyDriveTable : (live 0).run ≠ .uninit ∧ (∃ t, exec .apply (live 0) = .next t) ∧
    (live 0).patch.drive = 0 ∧ ((live 0).patch.write (.effect .drive) 1).drive ≠ 0 ∧ 0 < Config.build.wsN ∧
    Config.build.wsN - 1 < Config.build.wsN := by
  have h := Config.build.wsN_ge
  exact ⟨by decide, ⟨_, rfl⟩, rfl, by decide, by omega, by omega⟩

theorem witness_ApplyIdempotent : (live 0).run ≠ .uninit ∧ ∃ t, exec .apply (live 0) = .next t :=
  ⟨by decide, ⟨_, rfl⟩⟩

theorem witness_AttackRule : (live 0).run ≠ .uninit ∧ ((live 0).voices.get .v2).present = true ∧
    State.reset.run = .uninit ∧ (running.voices.get .v0).present = false ∧ 2 < (3 : BitVec 4).toNat ∧
    (1 : BitVec 24) ≠ 0 := by decide

theorem witness_ReleaseRule : (live 0).run ≠ .uninit ∧ ((live 0).voices.get .v2).present = true ∧
    State.reset.run = .uninit ∧ (running.voices.get .v0).present = false ∧ 2 < (3 : BitVec 4).toNat ∧
    (1 : BitVec 24) ≠ 0 := by decide

theorem witness_TriggerContinuity : (∃ t, exec (.attack .v0) (live 0) = .next t) ∧
    (∃ t, exec (.release .v0) (live 0) = .next t) ∧ EnvelopeOk 5 (.ad 5 0 480 960 (1 / 2)) ∧
    EnvelopeOk 5 (.rel 5 1 480) ∧ 5 ≤ 5 ∧ 40000 < Config.default.fs := by
  refine ⟨⟨_, rfl⟩, ⟨_, rfl⟩, ?_, ?_, le_refl 5, ?_⟩
  · exact ⟨le_refl 5, by norm_num, by norm_num, by norm_num, by norm_num, by norm_num, by norm_num⟩
  · exact ⟨le_refl 5, by norm_num, by norm_num, by norm_num⟩
  · show 40000 < 48000
    decide

/-- Every stretch of the envelope is met by some number of ticks: none, the first one after the attack, the first one
after the decay, the first one after the release. -/
theorem witness_EnvelopeTimeline :
    let ramp (r : Half) : Rat := (max r.toNat Config.build.tFloorMs : Nat) * Config.build.fs / 1000
    let A := ramp ((live 0).voices.get .v0).adsr.a
    let D := ramp ((live 0).voices.get .v0).adsr.d
    let R := ramp ((live 0).voices.get .v0).adsr.r
    (live 0).run = .running ∧ ((live 0).voices.get .v0).present = true ∧
      (∃ t, exec (.attack .v0) (live 0) = .next t) ∧ (∃ t, exec (.release .v0) (live 0) = .next t) ∧
      (0 : Rat) < A ∧ (0 : Rat) < R ∧ A ≤ (⌈A⌉₊ : Nat) ∧ (⌈A⌉₊ : Nat) < A + D ∧ A + D ≤ (⌈A + D⌉₊ : Nat) ∧
      R ≤ (⌈R⌉₊ : Nat) := by
  intro ramp A D R
  have hpos (r : Half) : 0 < ramp r := rampTicks_pos Config.build r
  have hD : (1 : Rat) ≤ D := by
    have h1 : (65535 : Rat) ≤ (max (65535 : Half).toNat Config.build.tFloorMs : Nat) := by
      exact_mod_cast le_max_left (65535 : Nat) Config.build.tFloorMs
    have h2 : (1 : Rat) ≤ Config.build.fs := by exact_mod_cast Config.build.fs_pos
    show (1 : Rat) ≤ (max (65535 : Half).toNat Config.build.tFloorMs : Nat) * Config.build.fs / 1000
    rw [le_div_iff₀ (by norm_num)]
    nlinarith
  have hA : (⌈A⌉₊ : Rat) < A + 1 := Nat.ceil_lt_add_one (hpos _).le
  exact ⟨rfl, rfl, ⟨_, rfl⟩, ⟨_, rfl⟩, hpos _, hpos _, Nat.le_ceil _, by linarith, Nat.le_ceil _, Nat.le_ceil _⟩

theorem witness_EnvelopeRange : EnvelopeOk 5 (.ad 5 0 2 3 (1 / 2)) ∧ EnvelopeOk 5 (.rel 5 1 480) ∧ 5 ≤ 5 ∧
    ((((6 + 1 : Nat) : Rat) - 5 ≤ 2) ∧ 5 ≤ 6) ∧ ((2 : Rat) ≤ ((7 : Nat) : Rat) - 5) := by
  refine ⟨⟨le_refl 5, ?_⟩, ⟨le_refl 5, ?_⟩, le_refl 5, ?_, ?_⟩ <;> norm_num

theorem witness_CapstartRule : State.reset.run = .uninit ∧ { running with cap := .recording }.cap = .recording ∧
    running.run ≠ .uninit ∧ running.cap = .idle ∧ (1 : BitVec 28) ≠ 0 := by decide

theorem witness_CapstopRule : State.reset.cap = .idle ∧ { running with cap := .recording }.cap = .recording ∧
    (1 : BitVec 28) ≠ 0 := by decide

/-- A trace with a tick, a second CAPSTART, a STOP and an illegal word of the CAPSTOP opcode. -/
theorem witness_RecordingHoldsTickFrames :
    let acts := [Act.tick ⟨1, 0, 0⟩, .cmd 0x90000000, .cmd 0x80000000, .cmd 0xA0000100]
    running.run ≠ .uninit ∧ running.cap = .idle ∧ (∀ a ∈ acts, notCapstop a = true) ∧
      ∃ t u, exec .capstart running = .next t ∧ exec .capstop (playState acts t) = .next u := by
  refine ⟨by decide, rfl, ?_, whenStarted beginCapture running, ?_⟩
  · intro a h
    simp only [List.mem_cons, List.not_mem_nil, or_false] at h
    rcases h with rfl | rfl | rfl | rfl <;> decide
  · obtain ⟨u, hu⟩ := exec_answers .capstop (playState [.tick ⟨1, 0, 0⟩, .cmd 0x90000000, .cmd 0x80000000,
      .cmd 0xA0000100] (whenStarted beginCapture running))
    exact ⟨u, rfl, hu⟩

theorem witness_WritesAreSilentUntilApply : ∀ a ∈ [Act.cmd 0x10000003, .tick ⟨1, 0, 0⟩, .cmd 0x40000001],
    notApply a = true := by
  intro a h
  simp only [List.mem_cons, List.not_mem_nil, or_false] at h
  rcases h with rfl | rfl | rfl <;> decide

theorem witness_DecodeEncode : (Instr.wrp (.voice .v0 .waveform) 4).wellFormed = true ∧
    decode 0x11000004 = .ok (.wrp (.voice .v1 .waveform) 4) := by decide

/-- `RDP`, `RDS`, neither; and a response to take. -/
theorem witness_ResponseRule : { running with cq := [0x20050000, 0x30000000] }.cq = [0x20050000, 0x30000000] ∧
    encode (.rdp (.voice .v0 .pan)) = 0x20050000 ∧ encode (.rds .status) = 0x30000000 ∧
    { running with rq := [0x00000000, 0x10000000] }.rq = [0x00000000, 0x10000000] := ⟨rfl, by decide, by decide, rfl⟩

/-- An illegal word, and CAPSTOP without a recording. -/
theorem witness_ErrorLeavesEngine :
    (∃ t, execWord 0xFFFFFFFF running = .next t ∧ t.rq = running.rq ++ [0x10000000]) ∧
    (∃ t, execWord 0xA0000000 running = .next t ∧ t.rq = running.rq ++ [0x20000000]) ∧
    (0x10000000 : Word).extractLsb' 28 4 ≠ 0 ∧ (0x20000000 : Word).extractLsb' 28 4 ≠ 0 := by
  refine ⟨⟨raiseError .illegal running, execWord_error (x := .reservedOpcode) ?_ _, rfl⟩,
    ⟨raiseError .capture running, (execWord_ok (i := .capstop) ?_ _).trans rfl, rfl⟩, ?_, ?_⟩ <;> decide

/-- A write, a START, a STOP and a tick, each of which changes what it is said to write. -/
theorem witness_WhoWritesWhat :
    (∃ t, runEvent .command { running with cq := [0x10010001] } = .next t ∧ t.patch ≠ running.patch) ∧
    (∃ t, runEvent .command { State.reset with cq := [0x70000000] } = .next t ∧ t.run ≠ State.reset.run) ∧
    (∃ t, runEvent .command { running with cq := [0x80000000] } = .next t ∧ t.run ≠ running.run) ∧
    (∃ t, runEvent (.tick ⟨0, 0, 0⟩) running = .next t ∧ t.t ≠ running.t) ∧
    { running with errIll := true }.errIll = true ∧ { running with errCap := true }.errCap = true := by
  exact ⟨⟨_, command_runs (i := .wrp (.voice .v0 .enabled) 1) rfl (by decide) rfl, by decide +kernel⟩,
    ⟨_, command_runs (i := .start) rfl (by decide) rfl, by decide⟩,
    ⟨_, command_runs (i := .stop) rfl (by decide) rfl, by decide⟩, ⟨_, rfl, by decide⟩, rfl, rfl⟩

/-- A legal word and an illegal one, with and without events still to come, and a word of the opcode table. -/
theorem witness_StepRunsDecoded :
    { running with cq := [0x40000000], pending := [.command, .take] }.pending = [HostEvent.command, .take] ∧
    decode 0x40000000 = .ok .apply ∧ { running with cq := [0x40000000] }.pending = [] ∧
    decode 0xB0000000 = .error .reservedOpcode ∧
    { running with cq := [0xB0000000], pending := [.command] }.pending = [HostEvent.command] ∧
    { running with cq := [0xB0000000] }.pending = [] ∧ decodeTableWord 32 0x40000000 = some .apply := by
  refine ⟨rfl, ?_, rfl, ?_, rfl, rfl, ?_⟩ <;> decide

theorem witness_HostEvents (es : List HostEvent) :
    { running with pending := .push 0x40000000 :: es }.pending = .push 0x40000000 :: es ∧
    { running with pending := .take :: es, rq := [0] }.rq = [0] ∧
    { running with pending := .tick ⟨1, 0, 0⟩ :: es }.pending = .tick ⟨1, 0, 0⟩ :: es ∧
    { running with pending := .rst :: es }.pending = .rst :: es ∧ running.pending = [] ∧ running.cq = [] :=
  ⟨rfl, rfl, rfl, rfl, rfl, rfl⟩

theorem witness_TickEnabling : suspended.run ≠ .running ∧ State.reset.run ≠ .running ∧ running.run = .running := by
  decide

theorem witness_TickSilent : running.run = .running ∧ running.fx.fxv = false := ⟨rfl, rfl⟩

/-- Voices that exist of either category, and one that does not. -/
theorem witness_TickVoices : (live 0).run = .running ∧ (live 0).fx.fxv = true ∧
    ((live 0).voices.get .v0).present = true ∧ ((live 0).voices.get .v0).cat = .tonal ∧
    liveNoise.run = .running ∧ liveNoise.fx.fxv = true ∧ (liveNoise.voices.get .v2).present = true ∧
    (liveNoise.voices.get .v2).cat = .noise ∧
    { live 0 with voices := State.reset.voices }.fx.fxv = true ∧
    ({ live 0 with voices := State.reset.voices }.voices.get .v0).present = false :=
  ⟨rfl, rfl, rfl, rfl, rfl, rfl, rfl, rfl, rfl, rfl⟩

theorem witness_TickFilter : (live 0).run = .running ∧ (live 0).fx.fxv = true := ⟨rfl, rfl⟩

theorem witness_TickDelayLine : (live 0).run = .running ∧ (live 0).fx.fxv = true ∧ memWf ((live 0).dl.get .left) ∧
    (live 0).t % dlLen Config.build + 1 ≠ (live 0).t % dlLen Config.build :=
  ⟨rfl, rfl, ((live_inv 0).dl .left).1, by omega⟩

theorem witness_TickReverb : (live 0).run = .running ∧ (live 0).fx.fxv = true ∧ memWf ((live 0).rh.get .left) ∧
    (live 0).t % rhLen Config.build + 1 ≠ (live 0).t % rhLen Config.build :=
  ⟨rfl, rfl, ((live_inv 0).rh .left).1, by omega⟩

theorem witness_TickOutput : (live 0).run = .running ∧ (live 0).fx.fxv = true ∧ 0 ≤ (live 0).limE :=
  ⟨rfl, rfl, le_refl 0⟩

theorem witness_TickControl : (live 0).run = .running ∧ (live 0).fx.fxv = true ∧
    ((live 0).voices.get .v0).present = true ∧
    ({ live 0 with voices := State.reset.voices }.voices.get .v0).present = false := ⟨rfl, rfl, rfl, rfl⟩

theorem witness_SmootherClosedForm : (live 0).run = .running ∧ (live 0).fx.fxv = true ∧
    ((live 0).voices.get .v0).present = true ∧ ((live 0).voices.get .v0).freq.valid = true ∧
    ((live 0).voices.get .v0).rate.valid = false ∧
    ((live 0).voices.get .v0).lforate.cur = ((live 0).voices.get .v0).lforate.tgt ∧
    Int.fract ((live 0).voices.get .v0).lfoPh = ((live 0).voices.get .v0).lfoPh :=
  ⟨rfl, rfl, rfl, rfl, rfl, rfl, Int.fract_zero⟩

/-- An odd quantiser, an intensity of 0, the first and the last cell, an odd table and a bound of its cells. -/
theorem witness_LookupProperties : (∀ y, Config.default.q (-y) = -Config.default.q y) ∧ (0 : Rat) ≤ 0 ∧
    0 < Config.default.wsN ∧ Config.default.wsN - 1 < Config.default.wsN ∧
    (∀ i, i < Config.default.wsN → memRead [] (Config.default.wsN - 1 - i) = -memRead [] i) ∧
    ∀ i, i < Config.default.wsN → |memRead [] i| ≤ 0 := by
  have h := Config.default.wsN_ge
  exact ⟨fun _ => rfl, le_refl 0, by omega, by omega, fun _ _ => by simp [memRead_nil], fun _ _ => by simp [memRead_nil]⟩

/-- An impulse of 1 on `fout` in tick 0 and none in tick 1, with a delay of one sample. -/
theorem witness_EchoLaw :
    let s := { heldState with fx := { heldState.fx with mgain := still 2 } }
    let srcs : List (Triple Rat) := [⟨2, 0, 0⟩, ⟨0, 0, 0⟩]
    (∀ x, bqId.q x = x) ∧ s.run = .running ∧ s.fx.fxv = true ∧ memWf (s.dl.get .left) ∧
      (∀ a, memRead (s.dl.get .left) a = 0) ∧ s.fx.dtime.cur = s.fx.dtime.tgt ∧ s.fx.dfb.cur = s.fx.dfb.tgt ∧
      max 1 (s.fx.dtime.cur * (bqId.fs : Rat)).floor.toNat = 1 ∧ 1 < dlLen bqId ∧
      ∀ n (h : n < srcs.length), foutSig bqId srcs[n] (ticksOn bqId (srcs.take n) s) .left = if n = 0 then 1 else 0 := by
  refine ⟨fun _ => rfl, rfl, rfl, ⟨List.Pairwise.nil, fun _ h => nomatch h⟩, fun _ => rfl, rfl, rfl, ?_, ?_, ?_⟩
  · decide +kernel
  · decide +kernel
  · intro n h
    match n with
    | 0 =>
      show foutSig bqId ⟨2, 0, 0⟩ (ticksOn bqId [] _) .left = 1
      decide +kernel
    | 1 =>
      show foutSig bqId ⟨0, 0, 0⟩ (ticksOn bqId [⟨2, 0, 0⟩] _) .left = 0
      decide +kernel

/-- Before any sample has come in. -/
theorem witness_SilenceInSilenceOut : (∀ y, Config.default.q (-y) = -Config.default.q y) ∧
    Quiet Config.default { running with lut := [] } ∧
    ∀ c, finSig Config.default ⟨1, 1, 1⟩ { running with lut := [] } c = 0 := by
  refine ⟨fun _ => rfl, ⟨fun c => by cases c <;> rfl, ?_, ?_, fun i _ => by simp [memRead_nil]⟩, fun c => ?_⟩
  · intro c; cases c <;> exact ⟨⟨List.Pairwise.nil, fun _ h => nomatch h⟩, fun _ => rfl⟩
  · intro c; cases c <;> exact ⟨⟨List.Pairwise.nil, fun _ h => nomatch h⟩, fun _ => rfl⟩
  · cases c <;> decide +kernel

theorem witness_ImpulseBound : (∀ x, Config.default.q x = x) ∧ 1 ≤ 2 ∧ 0 < 2 ∧ 0 + 1 < 2 ∧
    ∀ i : Nat, |(fun _ => (1 : Rat)) i| ≤ 1 := by
  refine ⟨fun _ => rfl, by decide, by decide, by decide, fun _ => ?_⟩
  norm_num

theorem witness_CurveShape : (0 : Rat) < 1 ∧ (1 : Rat) < 2 ∧ (0 : Rat) < 1 / 2 ∧ (-1 : Rat) < 1 ∧
    3 * (1 / 2 : Rat) < Config.default.piQ ∧ Config.default.piQ ≤ 9 := by
  refine ⟨by norm_num, by norm_num, by norm_num, by norm_num, ?_, ?_⟩
  · show 3 * (1 / 2 : Rat) < 3141592653589793 / 1000000000000000
    norm_num
  · show (3141592653589793 / 1000000000000000 : Rat) ≤ 9
    norm_num

/-- Two states of the block that differ in what the unused pitch smoothers hold. -/
theorem witness_UnreadStateIsUnread : BlockInv (live 0) ∧ BlockInv (live 7) ∧ (live 0).seen = (live 7).seen ∧
    live 0 ≠ live 7 ∧ (∃ t, step (live 0) = .next t) ∧ ∃ w, step (live 7) = .next w := by
  refine ⟨live_inv 0, live_inv 7, rfl, fun h => ?_, ⟨_, rfl⟩, _, rfl⟩
  have h2 : (voiceAt 0).rate.cur = (voiceAt 7).rate.cur := congrArg (fun s : State => s.voices.v0.rate.cur) h
  have h3 : (0 : Rat) = 7 := h2
  norm_num at h3

theorem witness_BlockInvKept : BlockInv (live 0) ∧
    ∃ t, step ((live 0).withFetchWord 32 0x40000000) = .next t ∧ BlockInv ((live 0).withFetchWord 32 0x40000000) := by
  refine ⟨live_inv 0, ?_⟩
  obtain ⟨t, ht⟩ := execWord_answers 0x40000000 { (live 0).withFetchWord 32 0x40000000 with cq := [], pending := [] }
  have h := live_inv 0
  exact ⟨t, (step_cons (s := (live 0).withFetchWord 32 0x40000000) rfl).trans
      ((controlStep_cons (s := { (live 0).withFetchWord 32 0x40000000 with pending := [] }) rfl).trans ht),
    ⟨h.patch, h.dl, h.rh, h.ir, h.irLen_le, h.lut, h.limE, h.present, h.uninit, h.voice, h.absent, h.effects,
      h.effects_unset, h.recording, h.idle, h.idle_ports⟩⟩

end Sys2Proof.Tests
end

section
/-!
No run stops (00_scope.md R14). Every instruction, every command word, every event, hence every step answers a next
state; one induction over the number of steps carries this to runs.
-/

open Sys2Proof Sys2Proof.Machine

namespace Sys2Proof.Proofs

/-! ### Instructions and command words -/

/-- Both branches of `WRP` answer: an illegal value is an error response, not a refusal (40_commands.md R104). -/
theorem execWrp_next (r : PatchReg) (imm : Half) (s : State) : ∃ t, execWrp r imm s = .next t := by
  unfold execWrp
  split
  · exact ⟨_, rfl⟩
  · exact ⟨_, rfl⟩

/-- Both capture states answer: CAPSTOP without a recording is an error response (60_exceptions.md R232). -/
theorem execCapstop_next (s : State) : ∃ t, execCapstop s = .next t := by
  unfold execCapstop
  split
  · exact ⟨_, rfl⟩
  · exact ⟨_, rfl⟩

/-- Only `WRP` and `CAPSTOP` branch at the outcome; every other meaning is a next state as it is written. -/
theorem exec_next (i : Instr) (s : State) : ∃ t, exec i s = .next t := by
  cases i with
  | wrp r imm => exact execWrp_next r imm s
  | capstop => exact execCapstop_next s
  | nop | rdp r | rds r | apply | attack v | release v | start | stop | capstart => exact ⟨_, rfl⟩

/-- The decoder is total, and a word it rejects is answered too (30_encoding.md R92). -/
theorem execWord_next (w : Word) (s : State) : ∃ t, execWord w s = .next t := by
  cases h : decode w with
  | ok i => exact execWord_ok h s ▸ exec_next i s
  | error x => exact ⟨_, execWord_error h s⟩

/-! ### Steps -/

theorem controlStep_next (s : State) : ∃ t, controlStep s = .next t := by
  cases h : s.cq with
  | nil => exact ⟨_, controlStep_nil h⟩
  | cons w ws => exact controlStep_cons h ▸ execWord_next w { s with cq := ws }

/-- The control agent's turn is the one event that executes a word; a tick always completes (40_commands.md R110). -/
theorem runEvent_next (e : HostEvent) (s : State) : ∃ t, runEvent e s = .next t := by
  cases e with
  | command => exact controlStep_next s
  | push w | tick src | take | rst => exact ⟨_, rfl⟩

theorem step_next (s : State) : ∃ t, step s = .next t := by
  cases h : s.pending with
  | nil => exact step_nil h ▸ controlStep_next s
  | cons e es => exact step_cons h ▸ runEvent_next e { s with pending := es }

/-! ### Runs -/

theorem run_succ_of_step {M : Host.Core} {s t : M.State} (h : M.step s = .next t) (k : Nat) :
    M.run (k + 1) s = M.run k t := by
  rw [Host.Core.run, h]

/-- A machine each of whose steps answers a next state never stops. -/
theorem run_next_of_step_next {M : Host.Core} (h : ∀ s, ∃ t, M.step s = .next t) (k : Nat) (s : M.State) :
    ∃ t, M.run k s = .next t := by
  induction k generalizing s with
  | zero => exact ⟨s, rfl⟩
  | succ k ih =>
    obtain ⟨t, ht⟩ := h s
    exact run_succ_of_step ht k ▸ ih t

/-- Settles O60: every step answers a next state, so every run does, by induction on the number of steps. -/
theorem everyRunIsSafe : Obligations.EveryRunIsSafe := fun s k =>
  run_next_of_step_next (M := Sys2Proof.core) step_next k s

end Sys2Proof.Proofs
end

section
/-!
Values in range (00_scope.md R11, R12; 20_memory.md R60 to R64; 41_voice_manager.md R129, R130; 43_envelope.md R166):
what the shared operations do to smoothers, sample memories and envelope schedules that are as the invariant of the
block wants them.
-/

namespace Sys2Proof.Machine

/-! ### Smoothers in their range -/

/-- A smoother that lies in `[lo, hi]` as soon as it is loaded: what `retarget` needs of the old value. -/
def Loadable (lo hi : Rat) (s : Smoother) : Prop := s.valid = true → SmootherIn lo hi s

/-- A smoother that is positive as soon as it is loaded. -/
def LoadablePos (s : Smoother) : Prop := s.valid = true → SmootherPos s

theorem Loadable.of_in {lo hi : Rat} {s : Smoother} (h : SmootherIn lo hi s) : Loadable lo hi s := fun _ => h

theorem Loadable.of_not_valid {lo hi : Rat} {s : Smoother} (h : s.valid = false) : Loadable lo hi s := fun hv =>
  absurd (h.symm.trans hv) Bool.false_ne_true

theorem LoadablePos.of_pos {s : Smoother} (h : SmootherPos s) : LoadablePos s := fun _ => h

theorem LoadablePos.of_not_valid {s : Smoother} (h : s.valid = false) : LoadablePos s := fun hv =>
  absurd (h.symm.trans hv) Bool.false_ne_true

/-- The speed after a `retarget` is the new one or that of a loaded smoother (41_voice_manager.md R129). -/
theorem retarget_alpha_mem {s : Smoother} {a : Rat} (x : Rat) (h : s.valid = true → 0 < s.alpha ∧ s.alpha ≤ 1)
    (ha : 0 < a ∧ a ≤ 1) : 0 < (retarget s x a).alpha ∧ (retarget s x a).alpha ≤ 1 := by
  rcases retarget_alpha s x a with e | ⟨e, hv⟩
  · rw [e]; exact ha
  · rw [e]; exact h hv

/-- The value after a `retarget` is the target of a first load, or stays (41_voice_manager.md R129). -/
theorem retarget_cur_eq (s : Smoother) (x a : Rat) :
    (retarget s x a).cur = x ∨ s.valid = true ∧ (retarget s x a).cur = s.cur := by
  cases hv : s.valid with
  | false => exact .inl (by rw [retarget_of_not_valid x a hv])
  | true => exact .inr ⟨rfl, retarget_cur x a hv⟩

theorem Loadable.retarget {lo hi x a : Rat} {s : Smoother} (h : Loadable lo hi s) (ha : 0 < a ∧ a ≤ 1) (hlo : lo ≤ x)
    (hhi : x ≤ hi) : SmootherIn lo hi (retarget s x a) := by
  obtain ⟨hpos, hle⟩ := retarget_alpha_mem x (fun hv => ⟨(h hv).alpha_pos, (h hv).alpha_le⟩) ha
  have hcur : lo ≤ (Machine.retarget s x a).cur ∧ (Machine.retarget s x a).cur ≤ hi := by
    rcases retarget_cur_eq s x a with e | ⟨hv, e⟩
    · rw [e]; exact ⟨hlo, hhi⟩
    · rw [e]; exact ⟨(h hv).cur_ge, (h hv).cur_le⟩
  exact ⟨retarget_valid s x a, hpos, hle, hcur.1, hcur.2, by rwa [retarget_tgt], by rwa [retarget_tgt]⟩

theorem LoadablePos.retarget {x a : Rat} {s : Smoother} (h : LoadablePos s) (ha : 0 < a ∧ a ≤ 1) (hx : 0 < x) :
    SmootherPos (retarget s x a) := by
  obtain ⟨hpos, hle⟩ := retarget_alpha_mem x (fun hv => ⟨(h hv).alpha_pos, (h hv).alpha_le⟩) ha
  have hcur : 0 < (Machine.retarget s x a).cur := by
    rcases retarget_cur_eq s x a with e | ⟨hv, e⟩
    · rw [e]; exact hx
    · rw [e]; exact (h hv).cur_pos
  exact ⟨retarget_valid s x a, hpos, hle, hcur, by rwa [retarget_tgt]⟩

/-- A step of a smoother is a convex combination of its value and its target (41_voice_manager.md R130). -/
theorem SmootherIn.advance {lo hi : Rat} {s : Smoother} (h : SmootherIn lo hi s) : SmootherIn lo hi (advance s) where
  loaded := by rw [advance_valid]; exact h.loaded
  alpha_pos := by rw [advance_alpha]; exact h.alpha_pos
  alpha_le := by rw [advance_alpha]; exact h.alpha_le
  cur_ge := by
    rw [advance_cur h.loaded]
    nlinarith [mul_nonneg h.alpha_pos.le (sub_nonneg.2 h.tgt_ge),
      mul_nonneg (sub_nonneg.2 h.alpha_le) (sub_nonneg.2 h.cur_ge)]
  cur_le := by
    rw [advance_cur h.loaded]
    nlinarith [mul_nonneg h.alpha_pos.le (sub_nonneg.2 h.tgt_le),
      mul_nonneg (sub_nonneg.2 h.alpha_le) (sub_nonneg.2 h.cur_le)]
  tgt_ge := by rw [advance_tgt]; exact h.tgt_ge
  tgt_le := by rw [advance_tgt]; exact h.tgt_le

theorem SmootherPos.advance {s : Smoother} (h : SmootherPos s) : SmootherPos (advance s) where
  loaded := by rw [advance_valid]; exact h.loaded
  alpha_pos := by rw [advance_alpha]; exact h.alpha_pos
  alpha_le := by rw [advance_alpha]; exact h.alpha_le
  cur_pos := by
    rw [advance_cur h.loaded]
    nlinarith [mul_pos h.alpha_pos h.tgt_pos, mul_nonneg (sub_nonneg.2 h.alpha_le) h.cur_pos.le]
  tgt_pos := by rw [advance_tgt]; exact h.tgt_pos

theorem alphaSmooth_mem (cfg : Config) : 0 < cfg.alphaSmooth ∧ cfg.alphaSmooth ≤ 1 :=
  ⟨cfg.alphaSmooth_pos, cfg.alphaSmooth_lt.le.trans cfg.alphaFast_le⟩

theorem alphaFast_mem (cfg : Config) : 0 < cfg.alphaFast ∧ cfg.alphaFast ≤ 1 :=
  ⟨cfg.alphaSmooth_pos.trans cfg.alphaSmooth_lt, cfg.alphaFast_le⟩

/-- The speed of the level: fast when `enabled` toggles (41_voice_manager.md R128). -/
theorem speed_mem (cfg : Config) (toggled : Prop) [Decidable toggled] :
    0 < (if toggled then cfg.alphaFast else cfg.alphaSmooth) ∧
      (if toggled then cfg.alphaFast else cfg.alphaSmooth) ≤ 1 := by
  split
  · exact alphaFast_mem cfg
  · exact alphaSmooth_mem cfg

/-! ### Sample memories -/

theorem MemoryOk.nil (n : Nat) : MemoryOk n [] := ⟨⟨List.Pairwise.nil, fun _ h => nomatch h⟩, fun _ h => nomatch h⟩

theorem MemoryOk.write {n a : Nat} {m : SampleMem} (h : MemoryOk n m) (ha : a < n) (x : Rat) :
    MemoryOk n (memWrite m a x) :=
  ⟨memWf_memWrite a x h.1, memWrite_lt h.2 ha⟩

theorem MemoryOk.table (n : Nat) (f : Nat → Rat) : MemoryOk n (memTable n f) :=
  ⟨memWf_memTable n f, fun _ hp => (memTable_addr hp).1⟩

/-! ### Envelopes -/

/-- A schedule stays legal as time goes on. -/
theorem EnvelopeOk.mono {t u : Nat} {e : Envelope} (h : EnvelopeOk t e) (htu : t ≤ u) : EnvelopeOk u e := by
  cases e with
  | hold x => exact h
  | ad t0 v0 aT dT s =>
    obtain ⟨ht, hrest⟩ := h
    exact ⟨ht.trans htu, hrest⟩
  | rel t0 v0 rT =>
    obtain ⟨ht, hrest⟩ := h
    exact ⟨ht.trans htu, hrest⟩

/-- The part `u / d` of a ramp of length `d` that has passed after `u` ticks of it. -/
theorem rampPart_mem {u d : Rat} (hu : 0 ≤ u) (hd : 0 < d) (h : u < d) : 0 ≤ u / d ∧ u / d ≤ 1 :=
  ⟨div_nonneg hu hd.le, (div_le_one hd).2 h.le⟩

/-- The value of a legal schedule lies in `[0, 1]` (43_envelope.md R166). -/
theorem envVal_mem {t : Nat} {e : Envelope} (h : EnvelopeOk t e) : 0 ≤ envVal e t ∧ envVal e t ≤ 1 := by
  cases e with
  | hold x => exact h
  | ad t0 v0 aT dT s =>
    obtain ⟨ht, hv0, hv1, haT, hdT, hs0, hs1⟩ := h
    have hu : (0 : Rat) ≤ (t : Rat) - (t0 : Rat) := sub_nonneg.2 (Nat.cast_le.2 ht)
    simp only [envVal]
    split_ifs with ha hd
    · obtain ⟨hr0, hr1⟩ := rampPart_mem hu haT ha
      rw [mul_div_assoc]
      constructor <;> nlinarith
    · obtain ⟨hr0, hr1⟩ := rampPart_mem (u := (t : Rat) - t0 - aT) (by linarith) hdT (by linarith)
      rw [mul_div_assoc]
      constructor <;> nlinarith
    · exact ⟨hs0, hs1⟩
  | rel t0 v0 rT =>
    obtain ⟨ht, hv0, hv1, hrT⟩ := h
    have hu : (0 : Rat) ≤ (t : Rat) - (t0 : Rat) := sub_nonneg.2 (Nat.cast_le.2 ht)
    simp only [envVal]
    split_ifs with hr
    · obtain ⟨hr0, hr1⟩ := rampPart_mem hu hrT hr
      constructor <;> nlinarith
    · exact ⟨le_refl 0, zero_le_one⟩

theorem attackSchedule_ok (cfg : Config) (a : Adsr) {e : Envelope} {t : Nat} (h : EnvelopeOk t e) :
    EnvelopeOk t (attackSchedule cfg a e t) :=
  ⟨le_refl t, (envVal_mem h).1, (envVal_mem h).2, rampTicks_pos cfg _, rampTicks_pos cfg _, le_clamp zero_le_one,
    clamp_le zero_le_one⟩

theorem releaseSchedule_ok (cfg : Config) (a : Adsr) {e : Envelope} {t : Nat} (h : EnvelopeOk t e) :
    EnvelopeOk t (releaseSchedule cfg a e t) :=
  ⟨le_refl t, (envVal_mem h).1, (envVal_mem h).2, rampTicks_pos cfg _⟩

end Sys2Proof.Machine
end

section
/-!
The records of the block under APPLY and under a tick: a voice (10_state.md R36), the effects record (R39) and the
staged bank (R21) stay as the invariant of the block wants them.
-/

namespace Sys2Proof.Machine

/-! ### Voices -/

theorem pitchOk_tonal {V : Voice} (h : V.cat = .tonal) :
    PitchOk V ↔ SmootherPos V.freq ∧ SmootherIn (-32768) 32767 V.det ∧ V.rate.valid = false := by
  simp only [PitchOk, h]

theorem pitchOk_noise {V : Voice} (h : V.cat = .noise) :
    PitchOk V ↔ SmootherPos V.rate ∧ V.freq.valid = false ∧ V.det.valid = false := by
  simp only [PitchOk, h]

/-- A voice between creation or replacement and its targets: what APPLY has to find so that its targets leave a voice
in order. Unlike `VoiceOk` it leaves open which smoothers are loaded. -/
structure VoiceSettled (t : Nat) (V : Voice) : Prop where
  epoch_pos : 1 ≤ V.epoch
  freq : LoadablePos V.freq
  det : Loadable (-32768) 32767 V.det
  rate : LoadablePos V.rate
  tonal : V.cat = .tonal → V.rate.valid = false
  noise : V.cat = .noise → V.freq.valid = false ∧ V.det.valid = false
  lvl : Loadable 0 1 V.lvl
  pan : Loadable (-1) 1 V.pan
  lforate : Loadable (1 / 1000) (65535 / 1000) V.lforate
  env : EnvelopeOk t V.env
  phase_ge : 0 ≤ V.lfoPh
  phase_lt : V.lfoPh < 1

theorem VoiceOk.settled {t : Nat} {V : Voice} (h : VoiceOk t V) : VoiceSettled t V := by
  have hpitch : LoadablePos V.freq ∧ Loadable (-32768) 32767 V.det ∧ LoadablePos V.rate ∧
      (V.cat = .tonal → V.rate.valid = false) ∧ (V.cat = .noise → V.freq.valid = false ∧ V.det.valid = false) := by
    cases hc : V.cat with
    | tonal =>
      obtain ⟨hf, hd, hr⟩ := (pitchOk_tonal hc).1 h.pitch
      exact ⟨.of_pos hf, .of_in hd, .of_not_valid hr, fun _ => hr, nofun⟩
    | noise =>
      obtain ⟨hr, hf, hd⟩ := (pitchOk_noise hc).1 h.pitch
      exact ⟨.of_not_valid hf, .of_not_valid hd, .of_pos hr, nofun, fun _ => ⟨hf, hd⟩⟩
  obtain ⟨hf, hd, hr, htonal, hnoise⟩ := hpitch
  exact ⟨h.epoch_pos, hf, hd, hr, htonal, hnoise, .of_in h.lvl, .of_in h.pan, .of_in h.lforate, h.env, h.phase_ge,
    h.phase_lt⟩

theorem createVoice_settled (t : Nat) (w : Waveform) (en : Bool) (V : Voice) :
    VoiceSettled t { createVoice w en V with wf := w } where
  epoch_pos := le_refl 1
  freq := .of_not_valid rfl
  det := .of_not_valid rfl
  rate := .of_not_valid rfl
  tonal _ := rfl
  noise _ := ⟨rfl, rfl⟩
  lvl := .of_not_valid rfl
  pan := .of_not_valid rfl
  lforate := .of_not_valid rfl
  env := ⟨zero_le_one, le_refl 1⟩
  phase_ge := le_refl 0
  phase_lt := zero_lt_one

/-- Creation, replacement or neither: in each case the pitch smoothers of the other category are not loaded
(41_voice_manager.md R122 to R124). -/
theorem settledVoice_settled {t : Nat} {V : Voice} (p : VoicePatch) (h : V.present = true → VoiceOk t V) :
    VoiceSettled t (settledVoice p V) := by
  rcases settleSource_cases V (waveformOf p.waveform) (enabledFlag p) with ⟨_, e⟩ | ⟨hp, _, e⟩ | ⟨hp, _, e⟩
  · rw [settledVoice, e]
    exact createVoice_settled t _ _ V
  · rw [settledVoice, e]
    exact { (h hp).settled with
      epoch_pos := Nat.succ_pos _, freq := .of_not_valid rfl, det := .of_not_valid rfl, rate := .of_not_valid rfl
      tonal := fun _ => rfl, noise := fun _ => ⟨rfl, rfl⟩ }
  · rw [settledVoice, e]
    exact { (h hp).settled with }

theorem baseFreq_pos (p : VoicePatch) : 0 < baseFreq p := mul_pos (by norm_num [refPitch]) (pow2_pos _)

theorem noiseRate_pos (cfg : Config) (p : VoicePatch) : 0 < noiseRate cfg p :=
  mul_pos (pow2_pos _) (cfg.exp2Cents_pos _)

theorem cents_mem (r : Half) : -32768 ≤ cents r ∧ cents r ≤ 32767 := by
  have h0 : -32768 ≤ r.toInt := BitVec.le_toInt r
  have h1 : r.toInt ≤ 32767 := Int.le_of_lt_add_one BitVec.toInt_lt
  unfold cents
  exact_mod_cast And.intro h0 h1

theorem levelTarget_mem (p : VoicePatch) (en : Bool) : 0 ≤ levelTarget p en ∧ levelTarget p en ≤ 1 := by
  unfold levelTarget
  split
  · exact ⟨le_clamp zero_le_one, clamp_le zero_le_one⟩
  · exact ⟨le_refl 0, zero_le_one⟩

theorem lfoRateTarget_mem (r : Half) : 1 / 1000 ≤ lfoRateTarget r ∧ lfoRateTarget r ≤ 65535 / 1000 :=
  ⟨le_max_right _ _, max_le (milli_le r) (by norm_num)⟩

theorem fullDepth_eq (cfg : Config) (d : LfoTarget) : fullDepth cfg d = amtMax cfg (routeTo d) := by cases d <;> rfl

theorem fullDepth_nonneg (cfg : Config) (d : LfoTarget) : 0 ≤ fullDepth cfg d := by
  cases d with
  | pitch => exact cfg.pitchModCents_pos.le
  | cutoff | amp | pan => norm_num [fullDepth, cutoffModHz, ampMod, panMod]

/-- A legal `LFO_TARGET` code selects a destination (10_state.md R23). -/
theorem lfoTargetOf?_of_le {r : Half} (h : r.toNat ≤ 3) : ∃ d, lfoTargetOf? r = some d := by
  unfold lfoTargetOf?
  interval_cases r.toNat <;> exact ⟨_, rfl⟩

theorem PatchLegal.lfoTarget_le {p : Patch} (h : PatchLegal p) (v : VoiceId) :
    (p.voices.get v).lfoTarget.toNat ≤ 3 :=
  of_decide_eq_true (h (.voice v .lfoTarget))

/-- The amount a route carries is a part of its full depth; only a voice that is not enabled has none
(42_modulation_router.md R141 to R143). -/
theorem applyVoice_route_ok (cfg : Config) {p : VoicePatch} (V : Voice) (h : p.lfoTarget.toNat ≤ 3) :
    ((applyVoice cfg p V).route = .none ↔ enabledFlag p = false) ∧ 0 ≤ (applyVoice cfg p V).amt ∧
      (applyVoice cfg p V).amt ≤ amtMax cfg (applyVoice cfg p V).route := by
  cases he : enabledFlag p with
  | false =>
    obtain ⟨hr, ha⟩ := applyVoice_route_disabled cfg p V he
    rw [hr, ha]
    exact ⟨⟨fun _ => rfl, fun _ => rfl⟩, le_refl 0, le_refl 0⟩
  | true =>
    obtain ⟨d, hd⟩ := lfoTargetOf?_of_le h
    obtain ⟨hr, ha⟩ := applyVoice_route_enabled cfg p V he hd
    have hroute : routeTo d ≠ .none := by cases d <;> exact nofun
    rw [hr, ha]
    refine ⟨⟨fun hn => absurd hn hroute, nofun⟩, mul_nonneg (le_clamp zero_le_one) (fullDepth_nonneg cfg d), ?_⟩
    rw [← fullDepth_eq]
    exact mul_le_of_le_one_left (fullDepth_nonneg cfg d) (clamp_le zero_le_one)

/-- After APPLY the pitch smoothers of the voice's category are loaded and the others are not
(41_voice_manager.md R125 to R127). -/
theorem applyVoice_pitchOk (cfg : Config) {t : Nat} (p : VoicePatch) {V : Voice}
    (h : VoiceSettled t (settledVoice p V)) : PitchOk (applyVoice cfg p V) := by
  obtain ⟨-, hcat, -, -, -, -, -, -, -, -, htonal, hnoise⟩ := applyVoice_fields cfg p V
  have hsettled : (settledVoice p V).cat = catOf (waveformOf p.waveform) := settleSource_cat V _ _
  cases hc : catOf (waveformOf p.waveform) with
  | tonal =>
    obtain ⟨hf, hd, hr⟩ := htonal hc
    rw [pitchOk_tonal (hcat.trans hc), hf, hd, hr]
    exact ⟨h.freq.retarget (alphaSmooth_mem cfg) (baseFreq_pos p),
      h.det.retarget (alphaSmooth_mem cfg) (cents_mem _).1 (cents_mem _).2, h.tonal (hsettled.trans hc)⟩
  | noise =>
    obtain ⟨hr, hf, hd⟩ := hnoise hc
    rw [pitchOk_noise (hcat.trans hc), hr, hf, hd]
    exact ⟨h.rate.retarget (alphaSmooth_mem cfg) (noiseRate_pos cfg p), h.noise (hsettled.trans hc)⟩

theorem applyVoice_present (cfg : Config) (p : VoicePatch) (V : Voice) : (applyVoice cfg p V).present = true := by
  obtain ⟨hp, -⟩ := applyVoice_fields cfg p V
  exact hp.trans (settledVoice_present p V)

/-- APPLY leaves a voice in order, whether it creates it, replaces its source or finds it as it should be. -/
theorem applyVoice_ok {t : Nat} {p : VoicePatch} {V : Voice} (h : V.present = true → VoiceOk t V)
    (hp : p.lfoTarget.toNat ≤ 3) : VoiceOk t (applyVoice Config.build p V) := by
  have hs := settledVoice_settled p h
  obtain ⟨-, hcat, hwf, hen, hepoch, -, henv, hph, hpan, hlvl, -, -⟩ := applyVoice_fields Config.build p V
  obtain ⟨hroute, hamt, hmax⟩ := applyVoice_route_ok Config.build V hp
  exact {
    epoch_pos := hepoch ▸ hs.epoch_pos
    cat_wf := by rw [hcat, hwf]
    pitch := applyVoice_pitchOk Config.build p hs
    lvl := hlvl ▸ hs.lvl.retarget (speed_mem _ _) (levelTarget_mem p _).1 (levelTarget_mem p _).2
    pan := hpan ▸ hs.pan.retarget (alphaSmooth_mem _) (le_clamp (by norm_num)) (clamp_le (by norm_num))
    lforate := (applyVoice_lforate Config.build p V).1 ▸
      hs.lforate.retarget (alphaSmooth_mem _) (lfoRateTarget_mem _).1 (lfoRateTarget_mem _).2
    env := henv ▸ hs.env
    phase_ge := hph ▸ hs.phase_ge
    phase_lt := hph ▸ hs.phase_lt
    route_en := by rw [hen]; exact hroute
    amt_ge := hamt
    amt_le := hmax }

theorem advanceVoice_present (cfg : Config) (V : Voice) : (advanceVoice cfg V).present = V.present := by
  unfold advanceVoice
  split <;> rfl

/-- A tick moves the phase and the loaded smoothers of a voice inside their ranges (40_commands.md R111). -/
theorem advanceVoice_ok (cfg : Config) {t : Nat} {V : Voice} (hV : V.present = true) (h : VoiceOk t V) :
    VoiceOk (t + 1) (advanceVoice cfg V) := by
  rw [advanceVoice, if_pos hV]
  have hpitch : PitchOk { V with
      lfoPh := nextPhase cfg V, freq := advance V.freq, det := advance V.det, rate := advance V.rate
      lvl := advance V.lvl, pan := advance V.pan, lforate := advance V.lforate } := by
    cases hc : V.cat with
    | tonal =>
      obtain ⟨hf, hd, hr⟩ := (pitchOk_tonal hc).1 h.pitch
      exact (pitchOk_tonal rfl).2 ⟨hf.advance, hd.advance, (advance_valid _).trans hr⟩
    | noise =>
      obtain ⟨hr, hf, hd⟩ := (pitchOk_noise hc).1 h.pitch
      exact (pitchOk_noise rfl).2 ⟨hr.advance, (advance_valid _).trans hf, (advance_valid _).trans hd⟩
  exact { h with
    pitch := hpitch, lvl := h.lvl.advance, pan := h.pan.advance, lforate := h.lforate.advance
    env := EnvelopeOk.mono h.env (Nat.le_succ t), phase_ge := frac_nonneg _, phase_lt := frac_lt_one _ }

/-! ### The effects record -/

/-- What APPLY has to find in the effects record: each smoother in its range as soon as it is loaded. -/
structure EffectsLoadable (fx : Effects) : Prop where
  fc : Loadable 20 20000 fx.fc
  fq : Loadable 0 20 fx.fq
  dtime : Loadable 0 ((Config.build.delayMaxMs : Rat) / 1000) fx.dtime
  dfb : Loadable 0 (19 / 20) fx.dfb
  dmix : Loadable 0 1 fx.dmix
  rmix : Loadable 0 1 fx.rmix
  mgain : Loadable 0 (65535 / 1000) fx.mgain

theorem EffectsOk.loadable {fx : Effects} (h : EffectsOk fx) : EffectsLoadable fx :=
  ⟨.of_in h.fc, .of_in h.fq, .of_in h.dtime, .of_in h.dfb, .of_in h.dmix, .of_in h.rmix, .of_in h.mgain⟩

theorem EffectsUnset.loadable {fx : Effects} (h : EffectsUnset fx) : EffectsLoadable fx :=
  ⟨.of_not_valid h.fc, .of_not_valid h.fq, .of_not_valid h.dtime, .of_not_valid h.dfb, .of_not_valid h.dmix,
    .of_not_valid h.rmix, .of_not_valid h.mgain⟩

/-- What holds of the impulse response's decay and length once it has been synthesised
(45_curve_generators.md R205, R206). -/
def ImpulseOk (irMs : Option Nat) (irLen : Nat) : Prop :=
  ∃ m, irMs = some m ∧ Config.build.revMinMs ≤ m ∧ m ≤ Config.build.revMaxMs ∧ irLen = impulseLen Config.build m

theorem impulseOk_decay (r : Half) :
    ImpulseOk (some (decayMs Config.build r)) (impulseLen Config.build (decayMs Config.build r)) :=
  ⟨_, rfl, le_clampNat Config.build.revMinMs_le, clampNat_le Config.build.revMinMs_le, rfl⟩

theorem ImpulseOk.le {irMs : Option Nat} {irLen : Nat} (h : ImpulseOk irMs irLen) : irLen ≤ rhLen Config.build := by
  obtain ⟨m, -, -, hmax, rfl⟩ := h
  exact impulseLen_le _ hmax

theorem driveIntensity_mem (cfg : Config) (r : Half) : 0 ≤ driveIntensity cfg r ∧ driveIntensity cfg r ≤ cfg.wsKMax :=
  ⟨mul_nonneg (le_clamp zero_le_one) cfg.wsKMax_pos.le, mul_le_of_le_one_left cfg.wsKMax_pos.le (clamp_le zero_le_one)⟩

/-- The clamped delay time in seconds (44_effects_bus.md R179). -/
theorem delayTarget_mem (cfg : Config) (r : Half) :
    0 ≤ clamp (ms r) 0 cfg.delayMaxMs / 1000 ∧
      clamp (ms r) 0 cfg.delayMaxMs / 1000 ≤ (cfg.delayMaxMs : Rat) / 1000 := by
  have hmax : (0 : Rat) ≤ cfg.delayMaxMs := Nat.cast_nonneg _
  exact ⟨div_nonneg (le_clamp hmax) (by norm_num), div_le_div_of_nonneg_right (clamp_le hmax) (by norm_num)⟩

/-- APPLY leaves the effects record in order, with a response kept or synthesised
(44_effects_bus.md R175 to R179; 45_curve_generators.md R205, R209). -/
theorem applyEffects_ok (p : Patch) {fx : Effects} (h : EffectsLoadable fx) {irMs : Option Nat} {irLen syn : Nat}
    (hsyn : 1 ≤ syn) (himp : ImpulseOk irMs irLen) :
    EffectsOk { applyEffects Config.build p fx with
      syn := syn, irLen := irLen, irMs := irMs, k := driveIntensity Config.build p.drive, fxv := true } where
  fc := h.fc.retarget (alphaSmooth_mem _) (le_clamp (by norm_num [cutoffMin, cutoffMax]))
    (clamp_le (by norm_num [cutoffMin, cutoffMax]))
  fq := h.fq.retarget (alphaSmooth_mem _) (le_clamp (by norm_num [qMax])) (clamp_le (by norm_num [qMax]))
  dtime := h.dtime.retarget (alphaSmooth_mem _) (delayTarget_mem _ _).1 (delayTarget_mem _ _).2
  dfb := h.dfb.retarget (alphaSmooth_mem _) (le_clamp (by norm_num [fbMax])) (clamp_le (by norm_num [fbMax]))
  dmix := h.dmix.retarget (alphaSmooth_mem _) (le_clamp zero_le_one) (clamp_le zero_le_one)
  rmix := h.rmix.retarget (alphaSmooth_mem _) (le_clamp zero_le_one) (clamp_le zero_le_one)
  mgain := h.mgain.retarget (alphaSmooth_mem _) (milli_nonneg _) (milli_le _)
  k_ge := (driveIntensity_mem _ _).1
  k_le := (driveIntensity_mem _ _).2
  syn_pos := hsyn
  impulse := himp

theorem advanceEffects_ok {fx : Effects} (h : EffectsOk fx) : EffectsOk (advanceEffects fx) :=
  { h with
    fc := h.fc.advance, fq := h.fq.advance, dtime := h.dtime.advance, dfb := h.dfb.advance, dmix := h.dmix.advance
    rmix := h.rmix.advance, mgain := h.mgain.advance }

/-- The detector moves towards a level that is not negative (44_effects_bus.md R195). -/
theorem detectorNext_nonneg (cfg : Config) {e p : Rat} (he : 0 ≤ e) (hp : 0 ≤ p) : 0 ≤ detectorNext cfg e p := by
  unfold detectorNext
  split
  · nlinarith [mul_nonneg cfg.limAAtt_pos.le hp, mul_nonneg (sub_nonneg.2 cfg.limAAtt_le) he]
  · nlinarith [mul_nonneg cfg.limARel_pos.le hp, mul_nonneg (sub_nonneg.2 cfg.limARel_le) he]

/-! ### The staged bank -/

/-- A legal write keeps every register legal (40_commands.md R104). -/
theorem PatchLegal.write {p : Patch} (h : PatchLegal p) {r : PatchReg} {x : Half} (hx : immLegal r x = true) :
    PatchLegal (p.write r x) := by
  intro r'
  by_cases hr : r' = r
  · rw [hr, Patch.read_write_same]; exact hx
  · rw [Patch.read_write_ne p x hr]; exact h r'

theorem patchLegal_reset : PatchLegal Patch.reset := by
  intro r
  cases r with
  | voice v r => cases v <;> cases r <;> rfl
  | effect r => cases r <;> rfl

end Sys2Proof.Machine
end

section
/-!
The invariant of the block (10_state.md R20 to R47): reset establishes it and every step keeps it. Each operation on the
state keeps it by a lemma of its own; the lemma names the clauses of the invariant its operation touches, and every
other clause is carried over as it stands.
-/

namespace Sys2Proof.Machine

/-! ### What the commands that branch at their outcome can do -/

theorem execWrp_cases {r : PatchReg} {x : Half} {s t : State} (h : execWrp r x s = .next t) :
    (immLegal r x = true ∧ t = respond .ok 0 { s with patch := s.patch.write r x }) ∨ t = raiseError .illegal s := by
  unfold execWrp at h
  split at h <;> cases h
  next hx => exact .inl ⟨hx, rfl⟩
  next => exact .inr rfl

theorem execCapstop_cases {s t : State} (h : execCapstop s = .next t) :
    t = raiseError .capture s ∨ t = endCapture s := by
  unfold execCapstop at h
  split at h <;> cases h
  · exact .inl rfl
  · exact .inr rfl

/-! ### Reset, answers and the small commands -/

theorem reset_voice (v : VoiceId) : State.reset.voices.get v = Voice.reset := by cases v <;> rfl

/-- After reset nothing is loaded and every memory but the table is empty (10_state.md R47). -/
theorem blockInv_reset : BlockInv State.reset where
  patch := patchLegal_reset
  dl c := by cases c <;> exact MemoryOk.nil _
  rh c := by cases c <;> exact MemoryOk.nil _
  ir c := by cases c <;> exact MemoryOk.nil _
  irLen_le := Nat.zero_le _
  lut := MemoryOk.table _ _
  limE := le_refl 0
  present v := by rw [reset_voice]; rfl
  uninit _ := rfl
  voice _ h := nomatch h
  absent v _ := by rw [reset_voice]; exact ⟨rfl, rfl, rfl⟩
  effects h := nomatch h
  effects_unset _ := ⟨rfl, rfl, rfl, rfl, rfl, rfl, rfl, rfl, rfl, rfl, rfl⟩
  recording h := nomatch h
  idle _ := rfl
  idle_ports _ := ⟨rfl, rfl, rfl⟩

namespace BlockInv

variable {s : State}

/-- The invariant does not look at the flags, the queues and what belongs to the host. -/
theorem with_outside (h : BlockInv s) (errIll errCap : Bool) (cq rq : List Word) (delivered : List (List Frame))
    (pending : List HostEvent) (session : Nat) :
    BlockInv { s with
      errIll := errIll, errCap := errCap, cq := cq, rq := rq, delivered := delivered, pending := pending
      session := session } :=
  { h with }

theorem respond (h : BlockInv s) (c : RespCode) (d : Half) : BlockInv (respond c d s) := { h with }

theorem raiseError (h : BlockInv s) (e : BlockError) : BlockInv (raiseError e s) := by
  cases e with
  | illegal => exact { h with }
  | capture => exact { h with }

theorem resetEvent (s : State) : BlockInv (resetEvent s) := blockInv_reset.with_outside _ _ _ _ _ _ _

/-- A command that acts only once the engine has been started keeps what it keeps when it acts. -/
theorem whenStarted (h : BlockInv s) {f : State → State} (hf : s.run ≠ .uninit → BlockInv (f s)) :
    BlockInv (whenStarted f s) := by
  by_cases hr : s.run = .uninit
  · rw [whenStarted_uninit f hr]; exact h.respond _ _
  · rw [whenStarted_started f hr]; exact hf hr

theorem startEngine (h : BlockInv s) : BlockInv (startEngine s) := by
  rw [startEngine_eq]
  exact { h with
    uninit := nofun, recording := fun hc => ⟨(h.recording hc).1, nofun⟩, idle_ports := fun hr => absurd rfl hr }

theorem stopEngine (h : BlockInv s) : BlockInv (stopEngine s) := by
  by_cases hr : s.run = .running
  · rw [stopEngine_running hr]
    exact { h with
      uninit := nofun, recording := fun hc => ⟨(h.recording hc).1, nofun⟩, idle_ports := fun _ => ⟨rfl, rfl, rfl⟩ }
  · rw [stopEngine_stopped hr]; exact h

theorem beginCapture (h : BlockInv s) (hr : s.run ≠ .uninit) : BlockInv (beginCapture s) := by
  cases hc : s.cap with
  | idle =>
    rw [beginCapture_idle hc]
    exact { h with recording := fun _ => ⟨rfl, hr⟩, idle := fun _ => rfl }
  | recording => rw [beginCapture_recording hc]; exact h.respond _ _

theorem endCapture (h : BlockInv s) : BlockInv (endCapture s) :=
  { h with recording := nofun, idle := fun _ => rfl }

/-- A trigger replaces the schedule of one existing voice (43_envelope.md R157). -/
theorem trigger (h : BlockInv s) {f : Adsr → Envelope → Nat → Envelope} (v : VoiceId)
    (hf : ∀ a e, EnvelopeOk s.t e → EnvelopeOk s.t (f a e s.t)) : BlockInv (trigger f v s) := by
  cases hp : (s.voices.get v).present with
  | false => rw [trigger_absent hp]; exact h.respond _ _
  | true =>
    have hx : s.fx.fxv = true := (h.present v).symm.trans hp
    rw [trigger_present hp]
    refine { h with present := fun w => ?_, voice := fun w hw => ?_, absent := fun w hw => ?_ }
    · by_cases e : w = v
      · subst e; exact (congrArg Voice.present (Triple.get_set_same _ _ _)).trans (hp.trans hx.symm)
      · exact (congrArg Voice.present (Triple.get_set_ne _ _ e)).trans (h.present w)
    · by_cases e : w = v
      · subst e
        refine (Triple.get_set_same s.voices w _).symm ▸ ?_
        exact { h.voice w hx with env := hf _ _ (h.voice w hx).env }
      · exact (Triple.get_set_ne s.voices _ e).symm ▸ h.voice w hw
    · exact absurd (hx.symm.trans hw) nofun

/-! ### APPLY -/

theorem voice_of_present (h : BlockInv s) {v : VoiceId} (hp : (s.voices.get v).present = true) :
    VoiceOk s.t (s.voices.get v) :=
  h.voice v ((h.present v).symm.trans hp)

theorem applyVoices_ok (h : BlockInv s) (v : VoiceId) : VoiceOk s.t ((applyVoices Config.build s).get v) := by
  rw [applyVoices, Triple.get_each]
  exact applyVoice_ok h.voice_of_present (h.patch.lfoTarget_le v)

theorem effectsLoadable (h : BlockInv s) : EffectsLoadable s.fx := by
  cases hx : s.fx.fxv with
  | false => exact (h.effects_unset hx).loadable
  | true => exact (h.effects hx).loadable

/-- A response that stands was built by an earlier APPLY. -/
theorem fxv_of_irMs (h : BlockInv s) {m : Nat} (hm : s.fx.irMs = some m) : s.fx.fxv = true := by
  by_contra hx
  exact nomatch hm.symm.trans (h.effects_unset (Bool.eq_false_iff.2 hx)).irMs_none

theorem reconcile (h : BlockInv s) (hr : s.run ≠ .uninit) : BlockInv (reconcile Config.build s) := by
  have hpresent : ∀ v, ((applyVoices Config.build s).get v).present = true := fun v => by
    rw [applyVoices, Triple.get_each]; exact applyVoice_present _ _ _
  rcases reconcile_cases Config.build s with ⟨hm, e⟩ | ⟨-, e⟩
  · have hfx := h.effects (h.fxv_of_irMs hm)
    rw [e]
    exact { h with
      lut := MemoryOk.table _ _, present := hpresent, uninit := fun hu => absurd hu hr
      voice := fun v _ => h.applyVoices_ok v, absent := nofun
      effects := fun _ => applyEffects_ok s.patch hfx.loadable hfx.syn_pos hfx.impulse, effects_unset := nofun }
  · have himp := impulseOk_decay s.patch.decay
    rw [e]
    exact { h with
      ir := fun c => by rw [respond_ir, Stereo.get_each]; exact MemoryOk.table _ _
      irLen_le := himp.le, lut := MemoryOk.table _ _, present := hpresent, uninit := fun hu => absurd hu hr
      voice := fun v _ => h.applyVoices_ok v, absent := nofun
      effects := fun _ => applyEffects_ok s.patch h.effectsLoadable (Nat.succ_pos _) himp, effects_unset := nofun }

/-! ### Ticks -/

theorem recordFrame_idle {cap : CapState} {buf : List Frame} (out : Frame) (h : cap = .idle → buf = []) :
    cap = .idle → recordFrame cap buf out = [] := by
  rintro rfl
  exact h rfl

theorem tickIdle (h : BlockInv s) : BlockInv (tickIdle s) := { h with idle_ports := fun _ => ⟨rfl, rfl, rfl⟩ }

theorem tickSilent (h : BlockInv s) (hr : s.run = .running) (hx : s.fx.fxv = false) : BlockInv (tickSilent s) :=
  { h with
    voice := fun _ hv => nomatch hx.symm.trans hv
    idle := recordFrame_idle _ h.idle
    idle_ports := fun hn => absurd hr hn }

/-- The tick writes one cell of each ring and moves the detector, the voices and the effects on; all else that the
invariant speaks of stays (40_commands.md R111). -/
theorem tickActive (h : BlockInv s) (src : Triple Rat) (hr : s.run = .running) (hx : s.fx.fxv = true) :
    BlockInv (tickActive Config.build src s) where
  patch := h.patch
  dl c := by
    rw [tickActive_dl, Stereo.get_each]
    exact (h.dl c).write (Nat.mod_lt _ (dlLen_pos _)) _
  rh c := by
    rw [tickActive_rh, Stereo.get_each]
    exact (h.rh c).write (Nat.mod_lt _ (rhLen_pos _)) _
  ir := h.ir
  irLen_le := h.irLen_le
  lut := h.lut
  limE := detectorNext_nonneg _ h.limE ((abs_nonneg _).trans (le_max_left _ _))
  present v := by
    rw [tickActive_voices, Triple.get_each, advanceVoice_present]
    exact h.present v
  uninit := h.uninit
  voice v _ := by
    rw [tickActive_voices, Triple.get_each]
    exact advanceVoice_ok _ ((h.present v).trans hx) (h.voice v hx)
  absent _ hv := nomatch hx.symm.trans hv
  effects _ := advanceEffects_ok (h.effects hx)
  effects_unset hv := nomatch hx.symm.trans hv
  recording := h.recording
  idle := recordFrame_idle _ h.idle
  idle_ports hn := absurd hr hn

theorem tickEvent (h : BlockInv s) (src : Triple Rat) : BlockInv (tickEvent Config.build src s) := by
  by_cases hr : s.run = .running
  · cases hx : s.fx.fxv with
    | false => rw [tickEvent_silent _ _ hr hx]; exact h.tickSilent hr hx
    | true => rw [tickEvent_active _ _ hr hx]; exact h.tickActive src hr hx
  · rw [tickEvent_stopped _ _ hr]; exact h.tickIdle

/-! ### Every step -/

theorem execWrp (h : BlockInv s) {t : State} {r : PatchReg} {x : Half} (e : execWrp r x s = .next t) : BlockInv t := by
  rcases execWrp_cases e with ⟨hx, rfl⟩ | rfl
  · exact { h with patch := h.patch.write hx }
  · exact h.raiseError _

theorem execCapstop (h : BlockInv s) {t : State} (e : execCapstop s = .next t) : BlockInv t := by
  rcases execCapstop_cases e with rfl | rfl
  · exact h.raiseError _
  · exact h.endCapture

theorem exec (h : BlockInv s) {i : Instr} {t : State} (e : exec i s = .next t) : BlockInv t := by
  cases i with
  | wrp r x => exact h.execWrp e
  | capstop => exact h.execCapstop e
  | nop | rdp r | rds r => cases e; exact h.respond _ _
  | apply => cases e; exact h.whenStarted h.reconcile
  | attack v => cases e; exact h.whenStarted fun _ => h.trigger v fun a _ => attackSchedule_ok _ a
  | release v => cases e; exact h.whenStarted fun _ => h.trigger v fun a _ => releaseSchedule_ok _ a
  | start => cases e; exact h.startEngine.respond _ _
  | stop => cases e; exact h.stopEngine.respond _ _
  | capstart => cases e; exact h.whenStarted h.beginCapture

theorem execWord (h : BlockInv s) {w : Word} {t : State} (e : execWord w s = .next t) : BlockInv t := by
  cases hd : decode w with
  | ok i => exact h.exec (execWord_ok hd s ▸ e)
  | error x =>
    cases (execWord_error hd s).symm.trans e
    exact h.raiseError _

theorem controlStep (h : BlockInv s) {t : State} (e : controlStep s = .next t) : BlockInv t := by
  cases hq : s.cq with
  | nil =>
    cases (controlStep_nil hq).symm.trans e
    exact h
  | cons w ws => exact (h.with_outside _ _ ws _ _ _ _).execWord (controlStep_cons hq ▸ e)

theorem runEvent (h : BlockInv s) {ev : HostEvent} {t : State} (e : runEvent ev s = .next t) : BlockInv t := by
  cases ev with
  | command => exact h.controlStep e
  | push w | take => cases e; exact h.with_outside _ _ _ _ _ _ _
  | tick src => cases e; exact h.tickEvent src
  | rst => cases e; exact resetEvent s

theorem step (h : BlockInv s) {t : State} (e : step s = .next t) : BlockInv t := by
  cases hp : s.pending with
  | nil => exact h.controlStep (step_nil hp ▸ e)
  | cons ev es => exact (h.with_outside _ _ _ _ _ es _).runEvent (step_cons hp ▸ e)

end BlockInv

end Sys2Proof.Machine

namespace Sys2Proof.Proofs

open Sys2Proof.Machine

/-- Settles O58: the reset state meets every clause. -/
theorem blockInvAtReset : Obligations.BlockInvAtReset := blockInv_reset

/-- Settles O57: each event keeps the invariant, and so does each instruction the control agent's turn can execute. -/
theorem blockInvKept : Obligations.BlockInvKept := fun _ _ h e => h.step e

end Sys2Proof.Proofs
end

section
/-!
The decoder and the encoder answer each other (30_encoding.md R80 to R93): a legal instruction is decoded from its word,
and a word that decodes is the word of the instruction it decodes to, which is legal.
-/

open Sys2Proof Sys2Proof.Machine Sys2Proof.Claims

namespace Sys2Proof.Proofs

/-! ### Words of legal instructions -/

theorem decode_wrp {r : PatchReg} {x : Half} (h : immLegal r x = true) :
    decode (packWord 1 r.group r.index x) = .ok (.wrp r x) := by
  obtain ⟨hop, hg, hi, hx⟩ := packWord_fields 1 r.group r.index x
  have hrow : decode (packWord 1 r.group r.index x) = decodeWrp (packWord 1 r.group r.index x) := by
    rw [decode, hop]; rfl
  rw [hrow, decodeWrp, hg, hi, hx, patchRegOf?_code]
  exact if_pos h

theorem decode_rdp (r : PatchReg) : decode (packWord 2 r.group r.index 0) = .ok (.rdp r) := by
  obtain ⟨hop, hg, hi, hx⟩ := packWord_fields 2 r.group r.index 0
  have hrow : decode (packWord 2 r.group r.index 0) = decodeRdp (packWord 2 r.group r.index 0) := by
    rw [decode, hop]; rfl
  rw [hrow, decodeRdp, hg, hi, hx, patchRegOf?_code]
  exact if_pos rfl

theorem decode_encode {i : Instr} (h : i.wellFormed = true) : decode (encode i) = .ok i := by
  cases i with
  | wrp r x => exact decode_wrp h
  | rdp r => exact decode_rdp r
  | rds r => cases r <;> decide
  | attack v | release v => cases v <;> decide
  | nop | apply | start | stop | capstart | capstop => decide

/-! ### Words that decode -/

/-- A word is the packed word of its fields, the opcode given as a number. -/
theorem packWord_eq {w : Word} {op g : BitVec 4} {i : BitVec 8} {x : Half} (hop : (opField w).toNat = op.toNat)
    (hg : g = grpField w) (hi : i = idxField w) (hx : x = immField w) : packWord op g i x = w := by
  rw [← BitVec.eq_of_toNat_eq hop, hg, hi, hx, packWord_of_fields]

theorem decodeZ_eq_ok {i j : Instr} {w : Word} (h : decodeZ i w = .ok j) :
    i = j ∧ grpField w = 0 ∧ idxField w = 0 ∧ immField w = 0 := by
  unfold decodeZ at h
  split at h <;> cases h
  next hz => exact ⟨rfl, hz⟩

theorem decodeV_eq_ok {mk : VoiceId → Instr} {j : Instr} {w : Word} (h : decodeV mk w = .ok j) :
    ∃ v, mk v = j ∧ v.code = grpField w ∧ idxField w = 0 ∧ immField w = 0 := by
  unfold decodeV at h
  split at h
  · next hz =>
    split at h <;> cases h
    next v hv => exact ⟨v, rfl, voiceOf?_eq_some hv, hz⟩
  · cases h

theorem decodeWrp_eq_ok {j : Instr} {w : Word} (h : decodeWrp w = .ok j) :
    ∃ r, .wrp r (immField w) = j ∧ r.group = grpField w ∧ r.index = idxField w ∧ immLegal r (immField w) = true := by
  unfold decodeWrp at h
  split at h
  · next r hr =>
    split at h <;> cases h
    next hx => exact ⟨r, rfl, (patchRegOf?_eq_some hr).1, (patchRegOf?_eq_some hr).2, hx⟩
  · cases h

theorem decodeRdp_eq_ok {j : Instr} {w : Word} (h : decodeRdp w = .ok j) :
    ∃ r, .rdp r = j ∧ r.group = grpField w ∧ r.index = idxField w ∧ immField w = 0 := by
  unfold decodeRdp at h
  split at h
  · next hz =>
    split at h <;> cases h
    next r hr => exact ⟨r, rfl, (patchRegOf?_eq_some hr).1, (patchRegOf?_eq_some hr).2, hz⟩
  · cases h

theorem decodeRds_eq_ok {j : Instr} {w : Word} (h : decodeRds w = .ok j) :
    ∃ r, .rds r = j ∧ grpField w = 0 ∧ r.index = idxField w ∧ immField w = 0 := by
  unfold decodeRds at h
  split at h
  · next hz =>
    split at h <;> cases h
    next r hr => exact ⟨r, rfl, hz.1, statusRegOf?_eq_some hr, hz.2⟩
  · cases h

/-- A word without operands that decodes is the encoder's, and its instruction is legal. -/
theorem encode_of_decodeZ {i j : Instr} {w : Word} {op : BitVec 4} (h : decodeZ i w = .ok j)
    (hi : encode i = packWord op 0 0 0) (hop : (opField w).toNat = op.toNat) (hwf : i.wellFormed = true) :
    encode j = w ∧ j.wellFormed = true := by
  obtain ⟨rfl, hg, hidx, hx⟩ := decodeZ_eq_ok h
  exact ⟨hi.trans (packWord_eq hop hg.symm hidx.symm hx.symm), hwf⟩

theorem encode_of_decodeV {mk : VoiceId → Instr} {j : Instr} {w : Word} {op : BitVec 4}
    (h : decodeV mk w = .ok j) (hi : ∀ v, encode (mk v) = packWord op v.code 0 0)
    (hop : (opField w).toNat = op.toNat) (hwf : ∀ v, (mk v).wellFormed = true) :
    encode j = w ∧ j.wellFormed = true := by
  obtain ⟨v, rfl, hg, hidx, hx⟩ := decodeV_eq_ok h
  exact ⟨(hi v).trans (packWord_eq hop hg hidx.symm hx.symm), hwf v⟩

/-- A word that decodes is the word of its instruction, and the instruction is legal. -/
theorem encode_of_decode {i : Instr} {w : Word} (h : decode w = .ok i) : encode i = w ∧ i.wellFormed = true := by
  unfold decode at h
  split at h
  case h_2 hop =>
    obtain ⟨r, rfl, hg, hi, hx⟩ := decodeWrp_eq_ok h
    exact ⟨packWord_eq hop hg hi rfl, hx⟩
  case h_3 hop =>
    obtain ⟨r, rfl, hg, hi, hx⟩ := decodeRdp_eq_ok h
    exact ⟨packWord_eq hop hg hi hx.symm, rfl⟩
  case h_4 hop =>
    obtain ⟨r, rfl, hg, hi, hx⟩ := decodeRds_eq_ok h
    exact ⟨packWord_eq hop hg.symm hi hx.symm, rfl⟩
  case h_6 hop => exact encode_of_decodeV h (fun _ => rfl) hop fun _ => rfl
  case h_7 hop => exact encode_of_decodeV h (fun _ => rfl) hop fun _ => rfl
  case h_12 => cases h
  all_goals next hop => exact encode_of_decodeZ h rfl hop rfl

/-! ### The words the spec writes out -/

theorem immLegal_one (r : PatchReg) : immLegal r 1 = true := by
  cases r with
  | voice v r => cases r <;> rfl
  | effect r => cases r <;> rfl

/-- The voice groups' registers have the index and the field of their line (10_state.md R22). -/
theorem voiceGroup_line : ∀ q ∈ voiceGroup, q.2.1.index = q.1 ∧ ∀ p : VoicePatch, p.read q.2.1 = q.2.2 p := by
  intro q hq
  fin_cases hq <;> exact ⟨rfl, fun _ => rfl⟩

/-- The effect groups' registers have the group, the index and the field of their line (10_state.md R22). -/
theorem effectGroups_line : ∀ q ∈ effectGroups,
    q.2.2.1.group = q.1 ∧ q.2.2.1.index = q.2.1 ∧ ∀ p : Patch, p.read (.effect q.2.2.1) = q.2.2.2 p := by
  intro q hq
  fin_cases hq <;> exact ⟨rfl, rfl, fun _ => rfl⟩

theorem statusMap_line : ∀ q ∈ statusMap, q.2.index = q.1 := by decide

/-- The `WRP` and `RDP` words of a register, written as the row of their fields. -/
theorem decode_register_words {r : PatchReg} {g : BitVec 4} {i : BitVec 8} (hg : r.group = g) (hi : r.index = i) :
    decode ((1 : BitVec 4) ++ g ++ i ++ (1 : Half)) = .ok (.wrp r 1) ∧
      decode ((2 : BitVec 4) ++ g ++ i ++ (0 : Half)) = .ok (.rdp r) := by
  subst hg hi
  exact ⟨decode_wrp (immLegal_one r), decode_rdp r⟩

/-- The words of a trigger, written with the voice's number. -/
theorem decode_trigger_words {v : VoiceId} {g : BitVec 4} (h : v.code = g) :
    decode ((5 : BitVec 4) ++ g ++ (0 : BitVec 24)) = .ok (.attack v) ∧
      decode ((6 : BitVec 4) ++ g ++ (0 : BitVec 24)) = .ok (.release v) := by
  subst h
  cases v <;> decide

/-- Settles O36: the maps are read line by line, each word being that of a register, a status register or a voice with
the numbers of its line. -/
theorem decodeSpecWords : Obligations.DecodeSpecWords := by
  refine ⟨fun g hg => ?_, fun q hq => ?_, fun q hq => ?_, by decide, by decide, by decide, by decide, by decide,
    by decide⟩
  · have hcode : g.2.code = g.1 := by revert g; decide
    obtain ⟨hatt, hrel⟩ := decode_trigger_words hcode
    refine ⟨hatt, hrel, fun q hq => ?_⟩
    obtain ⟨hi, hread⟩ := voiceGroup_line q hq
    obtain ⟨hw, hr⟩ := decode_register_words (r := .voice g.2 q.2.1) hcode hi
    exact ⟨hcode, hi, hw, hr, fun p => hread (p.voices.get g.2)⟩
  · obtain ⟨hg, hi, hread⟩ := effectGroups_line q hq
    obtain ⟨hw, hr⟩ := decode_register_words (r := .effect q.2.2.1) hg hi
    exact ⟨hg, hi, hw, hr, hread⟩
  · have hi := statusMap_line q hq
    exact ⟨hi, hi ▸ decode_encode (i := .rds q.2) rfl⟩

end Sys2Proof.Proofs
end

section
/-!
Who writes the staged bank, the run state, the tick counter and the sticky flags (10_state.md R21, R27 to R29). Most
commands keep all five; what the others do is said once for `exec`, then once for the events.
-/

open Sys2Proof Sys2Proof.Machine

namespace Sys2Proof.Proofs

/-! ### Commands -/

/-- The staged bank, the run state and the tick counter are kept, and no sticky flag is cleared. -/
structure KeepsControl (s t : State) : Prop where
  patch : t.patch = s.patch
  run : t.run = s.run
  tick : t.t = s.t
  errIll : s.errIll = true → t.errIll = true
  errCap : s.errCap = true → t.errCap = true

theorem respond_keepsControl (c : RespCode) (d : Half) (s : State) : KeepsControl s (respond c d s) :=
  ⟨rfl, rfl, rfl, id, id⟩

/-- An error sets its flag and clears none (60_exceptions.md R233). -/
theorem raiseError_keepsControl (e : BlockError) (s : State) : KeepsControl s (raiseError e s) := by
  cases e with
  | illegal => exact ⟨rfl, rfl, rfl, fun _ => rfl, id⟩
  | capture => exact ⟨rfl, rfl, rfl, id, fun _ => rfl⟩

theorem whenStarted_keepsControl {f : State → State} {s : State} (h : KeepsControl s (f s)) :
    KeepsControl s (whenStarted f s) := by
  by_cases hr : s.run = .uninit
  · rw [whenStarted_uninit f hr]; exact respond_keepsControl _ _ s
  · rw [whenStarted_started f hr]; exact h

theorem reconcile_keepsControl (cfg : Config) (s : State) : KeepsControl s (reconcile cfg s) := by
  rcases reconcile_cases cfg s with ⟨_, e⟩ | ⟨_, e⟩
  · rw [e]; exact ⟨rfl, rfl, rfl, id, id⟩
  · rw [e]; exact ⟨rfl, rfl, rfl, id, id⟩

theorem trigger_keepsControl (f : Adsr → Envelope → Nat → Envelope) (v : VoiceId) (s : State) :
    KeepsControl s (trigger f v s) := by
  cases hp : (s.voices.get v).present with
  | false => rw [trigger_absent hp]; exact respond_keepsControl _ _ s
  | true => rw [trigger_present hp]; exact ⟨rfl, rfl, rfl, id, id⟩

theorem beginCapture_keepsControl (s : State) : KeepsControl s (beginCapture s) := by
  cases hc : s.cap with
  | idle => rw [beginCapture_idle hc]; exact ⟨rfl, rfl, rfl, id, id⟩
  | recording => rw [beginCapture_recording hc]; exact respond_keepsControl _ _ s

/-- What an instruction can do to the staged bank, the run state, the tick counter and the sticky flags. -/
theorem exec_cases {i : Instr} {s t : State} (h : exec i s = .next t) :
    KeepsControl s t ∨
    (∃ r x, i = .wrp r x ∧ immLegal r x = true ∧ t = respond .ok 0 { s with patch := s.patch.write r x }) ∨
    (i = .start ∧ t = respond .ok 0 { s with run := .running }) ∨
    (i = .stop ∧ s.run = .running ∧
      t = respond .ok 0 { s with run := .suspended, ports := idlePorts s.ports }) := by
  cases i with
  | wrp r x =>
    rcases execWrp_cases h with ⟨hx, e⟩ | rfl
    · exact .inr (.inl ⟨r, x, rfl, hx, e⟩)
    · exact .inl (raiseError_keepsControl _ s)
  | capstop =>
    rcases execCapstop_cases h with rfl | rfl
    · exact .inl (raiseError_keepsControl _ s)
    · exact .inl ⟨rfl, rfl, rfl, id, id⟩
  | nop | rdp r | rds r => cases h; exact .inl (respond_keepsControl _ _ s)
  | apply => cases h; exact .inl (whenStarted_keepsControl (reconcile_keepsControl _ s))
  | attack v | release v => cases h; exact .inl (whenStarted_keepsControl (trigger_keepsControl _ v s))
  | capstart => cases h; exact .inl (whenStarted_keepsControl (beginCapture_keepsControl s))
  | start =>
    cases h
    exact .inr (.inr (.inl ⟨rfl, by rw [startEngine_eq]⟩))
  | stop =>
    cases h
    by_cases hr : s.run = .running
    · exact .inr (.inr (.inr ⟨rfl, hr, by rw [stopEngine_running hr]⟩))
    · rw [stopEngine_stopped hr]
      exact .inl (respond_keepsControl _ _ s)

/-! ### Events -/

/-- A tick step counts one tick while RUNNING and writes none of the others (40_commands.md R110 to R112). -/
theorem tickEvent_cases (cfg : Config) (src : Triple Rat) (s : State) :
    KeepsControl s (tickEvent cfg src s) ∨
    (s.run = .running ∧ KeepsControl { s with t := s.t + 1 } (tickEvent cfg src s)) := by
  by_cases hr : s.run = .running
  · cases hx : s.fx.fxv with
    | false => rw [tickEvent_silent cfg src hr hx]; exact .inr ⟨hr, rfl, rfl, rfl, id, id⟩
    | true => rw [tickEvent_active cfg src hr hx]; exact .inr ⟨hr, rfl, rfl, rfl, id, id⟩
  · rw [tickEvent_stopped cfg src hr]
    exact .inl ⟨rfl, rfl, rfl, id, id⟩

/-- What the control agent's turn can do to the five, with the word it takes (30_encoding.md R84). -/
theorem controlStep_cases {s t : State} (h : controlStep s = .next t) :
    KeepsControl s t ∨
    (∃ r x ws, s.cq = encode (.wrp r x) :: ws ∧ immLegal r x = true ∧
      KeepsControl { s with patch := s.patch.write r x } t) ∨
    (∃ ws, s.cq = encode .start :: ws ∧ KeepsControl { s with run := .running } t) ∨
    (∃ ws, s.cq = encode .stop :: ws ∧ s.run = .running ∧ KeepsControl { s with run := .suspended } t) := by
  cases hq : s.cq with
  | nil =>
    cases (controlStep_nil hq).symm.trans h
    exact .inl ⟨rfl, rfl, rfl, id, id⟩
  | cons w ws =>
    rw [controlStep_cons hq] at h
    cases hd : decode w with
    | error x =>
      cases (execWord_error hd _).symm.trans h
      obtain ⟨hpatch, hrun, ht, hill, hcap⟩ := raiseError_keepsControl .illegal { s with cq := ws }
      exact .inl ⟨hpatch, hrun, ht, hill, hcap⟩
    | ok i =>
      obtain ⟨rfl, -⟩ := encode_of_decode hd
      rcases exec_cases ((execWord_ok hd _).symm.trans h) with ⟨hpatch, hrun, ht, hill, hcap⟩ | ⟨r, x, rfl, hx, rfl⟩ |
        ⟨rfl, rfl⟩ | ⟨rfl, hr, rfl⟩
      · exact .inl ⟨hpatch, hrun, ht, hill, hcap⟩
      · exact .inr (.inl ⟨r, x, ws, rfl, hx, rfl, rfl, rfl, id, id⟩)
      · exact .inr (.inr (.inl ⟨ws, rfl, rfl, rfl, rfl, id, id⟩))
      · exact .inr (.inr (.inr ⟨ws, rfl, hr, rfl, rfl, rfl, id, id⟩))

/-- What an event but a reset can do to the five. -/
theorem runEvent_cases {e : HostEvent} {s t : State} (he : e ≠ .rst) (h : runEvent e s = .next t) :
    KeepsControl s t ∨
    (e = .command ∧ ∃ r x ws, s.cq = encode (.wrp r x) :: ws ∧ immLegal r x = true ∧
      KeepsControl { s with patch := s.patch.write r x } t) ∨
    (e = .command ∧ ∃ ws, s.cq = encode .start :: ws ∧ KeepsControl { s with run := .running } t) ∨
    (e = .command ∧ ∃ ws, s.cq = encode .stop :: ws ∧ s.run = .running ∧
      KeepsControl { s with run := .suspended } t) ∨
    ((∃ src, e = .tick src) ∧ s.run = .running ∧ KeepsControl { s with t := s.t + 1 } t) := by
  cases e with
  | rst => exact absurd rfl he
  | push w | take => cases h; exact .inl ⟨rfl, rfl, rfl, id, id⟩
  | tick src =>
    cases h
    rcases tickEvent_cases Config.build src s with hk | ⟨hr, hk⟩
    · exact .inl hk
    · exact .inr (.inr (.inr (.inr ⟨⟨src, rfl⟩, hr, hk⟩)))
  | command =>
    rcases controlStep_cases h with hk | hw | hstart | hstop
    · exact .inl hk
    · exact .inr (.inl ⟨rfl, hw⟩)
    · exact .inr (.inr (.inl ⟨rfl, hstart⟩))
    · exact .inr (.inr (.inr (.inl ⟨rfl, hstop⟩)))

/-- Settles O39: in each of the things an event can do, a field that differs is the one its writer writes. -/
theorem whoWritesWhat : Obligations.WhoWritesWhat := by
  intro s t e he h
  rcases runEvent_cases he h with hk | ⟨rfl, r, x, ws, hq, hx, hk⟩ | ⟨rfl, ws, hq, hk⟩ | ⟨rfl, ws, hq, hr, hk⟩ |
    ⟨hsrc, hr, hk⟩
  · exact ⟨(absurd hk.patch ·), (absurd hk.run ·), (absurd hk.tick ·), hk.errIll, hk.errCap⟩
  · exact ⟨fun _ => ⟨rfl, r, x, ws, hx, hq, hk.patch⟩, (absurd hk.run ·), (absurd hk.tick ·), hk.errIll, hk.errCap⟩
  · exact ⟨(absurd hk.patch ·), fun _ => ⟨rfl, ws, .inl ⟨hq, hk.run⟩⟩, (absurd hk.tick ·), hk.errIll, hk.errCap⟩
  · exact ⟨(absurd hk.patch ·), fun _ => ⟨rfl, ws, .inr ⟨hq, hr, hk.run⟩⟩, (absurd hk.tick ·), hk.errIll, hk.errCap⟩
  · exact ⟨(absurd hk.patch ·), (absurd hk.run ·), fun _ => ⟨hsrc, hr, hk.tick⟩, hk.errIll, hk.errCap⟩

end Sys2Proof.Proofs
end

section
/-!
The status registers, field by field (10_state.md R30 to R34). Each word is a row of bit fields put side by side, so a
field is found by counting the bits below it.
-/

open Sys2Proof Sys2Proof.Machine Sys2Proof.Claims

namespace Sys2Proof.Proofs

/-! ### `STATUS` -/

theorem statusWord_run (s : State) : (statusWord s).extractLsb' 0 2 = runCode s.run :=
  BitVec.extractLsb'_append_eq_right

theorem statusWord_bits (s : State) :
    (statusWord s).getLsbD 2 = (s.cap == .recording) ∧ (statusWord s).getLsbD 3 = s.tapCreated ∧
      (statusWord s).getLsbD 4 = s.fx.fxv ∧ (statusWord s).getLsbD 5 = s.errIll ∧
      (statusWord s).getLsbD 6 = s.errCap ∧ (statusWord s).getLsbD 7 = false ∧
      (statusWord s).getLsbD 8 = s.voices.v0.present ∧ (statusWord s).getLsbD 9 = s.voices.v1.present ∧
      (statusWord s).getLsbD 10 = s.voices.v2.present := by
  simp only [statusWord, BitVec.getLsbD_append]
  simp

theorem statusWord_top (s : State) : (statusWord s).extractLsb' 11 5 = 0 := by
  apply BitVec.eq_of_getLsbD_eq
  intro j hj
  simp only [statusWord, BitVec.getLsbD_extractLsb', BitVec.getLsbD_append]
  interval_cases j <;> simp

/-- Settles O5: each field of `STATUS` is the flag or code that the word carries at its place. -/
theorem statusFields : Obligations.StatusFields := by
  refine ⟨fun s => ?_, by decide⟩
  obtain ⟨hcap, hbits⟩ := statusWord_bits s
  refine ⟨(statusWord_run s).trans ?_, ?_, ?_⟩
  · cases s.run <;> rfl
  · show (statusWord s).getLsbD 2 = true ↔ _
    rw [hcap, beq_iff_eq]
  · obtain ⟨a, b, c, d, e, f, g, h⟩ := hbits
    exact ⟨a, b, c, d, e, f, g, h, statusWord_top s⟩

/-! ### `ENVSTATE` and `ROUTE` -/

theorem voiceFields_field (f : Triple (BitVec 3)) (v : VoiceId) :
    (voiceFields f).extractLsb' (4 * v.code.toNat) 3 = f.get v := by
  apply BitVec.eq_of_getLsbD_eq
  intro j hj
  simp only [voiceFields, BitVec.getLsbD_extractLsb', BitVec.getLsbD_append]
  interval_cases j <;> cases v <;> simp [VoiceId.code, Triple.get]

theorem voiceFields_gap (f : Triple (BitVec 3)) (v : VoiceId) :
    (voiceFields f).getLsbD (4 * v.code.toNat + 3) = false := by
  simp only [voiceFields, BitVec.getLsbD_append]
  cases v <;> simp [VoiceId.code]

theorem voiceFields_top (f : Triple (BitVec 3)) : (voiceFields f).extractLsb' 12 4 = 0 := by
  apply BitVec.eq_of_getLsbD_eq
  intro j hj
  simp only [voiceFields, BitVec.getLsbD_extractLsb', BitVec.getLsbD_append]
  interval_cases j <;> simp

theorem envStateWord_field (s : State) (v : VoiceId) :
    (envStateWord s).extractLsb' (4 * v.code.toNat) 3 = voiceEnvState (s.voices.get v) s.t := by
  rw [envStateWord, voiceFields_field, Triple.get_each]

theorem routeWord_field (s : State) (v : VoiceId) :
    (routeWord s).extractLsb' (4 * v.code.toNat) 3 = routeCode (s.voices.get v).route := by
  rw [routeWord, voiceFields_field, Triple.get_each]

/-- Settles O6: the field of a voice is the code of its envelope state, and 0 where there is no voice. -/
theorem envstateFields : Obligations.EnvstateFields := by
  refine ⟨fun s v => ⟨fun hp => ?_, fun hp => ?_, voiceFields_gap _ v, voiceFields_top _⟩, by decide⟩
  · exact (envStateWord_field s v).trans (if_neg (by simp [hp]))
  · refine ((envStateWord_field s v).trans (if_pos hp)).trans ?_
    cases envState (s.voices.get v).env s.t <;> rfl

theorem exec_apply_eq {s t : State} (h : exec .apply s = .next t) : t = whenStarted (reconcile Config.build) s := by
  cases h
  rfl

theorem exec_apply_started {s t : State} (h : exec .apply s = .next t) (hr : s.run ≠ .uninit) :
    t = reconcile Config.build s :=
  (exec_apply_eq h).trans (whenStarted_started _ hr)

/-- Settles O8: the field of a voice is the code of its route, and a voice applied with `enabled` false has none. -/
theorem routeFields : Obligations.RouteFields := by
  refine ⟨fun s v => ⟨(routeWord_field s v).trans ?_, voiceFields_gap _ v, voiceFields_top _⟩, by decide, ?_⟩
  · cases (s.voices.get v).route <;> rfl
  · intro s t v hr h hen
    have hzero : (s.patch.voices.get v).enabled = 0 := hen
    have hoff : enabledFlag (s.patch.voices.get v) = false := by rw [enabledFlag, hzero]; rfl
    have hroute : (t.voices.get v).route = .none := by
      rw [exec_apply_started h hr, reconcile_voice]
      exact (applyVoice_route_disabled _ _ _ hoff).1
    exact (routeWord_field t v).trans (by rw [hroute]; rfl)

/-! ### `TICK` and `EPOCH` -/

theorem tickWord_toNat (s : State) (j : Nat) : (tickWord s j).toNat = s.t / 2 ^ (16 * j) % 2 ^ 16 := by
  rw [tickWord, BitVec.toNat_ofNat, Nat.shiftRight_eq_div_pow]

/-- The four quarters of a number, put together again, are that number modulo `2 ^ 64`. -/
theorem quarters_sum (n : Nat) :
    n % 2 ^ 16 + n / 2 ^ 16 % 2 ^ 16 * 2 ^ 16 + n / 2 ^ 32 % 2 ^ 16 * 2 ^ 32 + n / 2 ^ 48 % 2 ^ 16 * 2 ^ 48 =
      n % 2 ^ 64 := by
  omega

theorem execRds_eq (r : StatusReg) (s : State) : exec (.rds r) s = .next (okAnswer (statusRead s r) s) := by
  rw [okAnswer, ← respWord_ok]
  rfl

/-- An APPLY leaves the epoch of a voice that keeps its category (41_voice_manager.md R123). -/
theorem exec_apply_epoch {s t : State} {v : VoiceId} (h : exec .apply s = .next t)
    (hp : (s.voices.get v).present = true)
    (hc : (s.voices.get v).cat = catOf (waveformOf (s.patch.voices.get v).waveform)) :
    (t.voices.get v).epoch = (s.voices.get v).epoch := by
  by_cases hr : s.run = .uninit
  · rw [exec_apply_eq h, whenStarted_uninit _ hr, respond_voices]
  · obtain ⟨-, -, -, -, hepoch, -⟩ := applyVoice_fields Config.build (s.patch.voices.get v) (s.voices.get v)
    rw [exec_apply_started h hr, reconcile_voice, hepoch, settledVoice_keep _ _ hp hc]

/-- Settles O7: the quarters of `t` and the epochs as numbers, the answer of `RDS`, and the epochs over an APPLY. -/
theorem counterFields : Obligations.CounterFields := by
  refine ⟨fun s => ?_, fun r hr => ⟨?_, execRds_eq r⟩, fun s t h hkeep r hr => ?_⟩
  · have h0 : (statusRead s .tick0).toNat = s.t % 2 ^ 16 := BitVec.toNat_ofNat _ _
    have h1 : (statusRead s .tick1).toNat = s.t / 2 ^ 16 % 2 ^ 16 := tickWord_toNat s 1
    have h2 : (statusRead s .tick2).toNat = s.t / 2 ^ 32 % 2 ^ 16 := tickWord_toNat s 2
    have h3 : (statusRead s .tick3).toNat = s.t / 2 ^ 48 % 2 ^ 16 := tickWord_toNat s 3
    refine ⟨h0, h1, h2, h3, ?_, BitVec.toNat_ofNat _ _, BitVec.toNat_ofNat _ _, BitVec.toNat_ofNat _ _⟩
    rw [h0, h1, h2, h3]
    exact quarters_sum s.t
  · revert r
    decide
  · have hepoch (v : VoiceId) : epochWord t v = epochWord s v := by
      obtain ⟨hp, hc⟩ := hkeep v
      rw [epochWord, epochWord, exec_apply_epoch h hp hc]
    fin_cases hr
    · exact hepoch .v0
    · exact hepoch .v1
    · exact hepoch .v2

/-! ### Reset -/

/-- What the table holds after reset: the grid (10_state.md R43). -/
theorem reset_lut {i : Nat} (h : i < Config.build.wsN) : memRead State.reset.lut i = gridPoint Config.build i :=
  (memRead_memTable _ _ i).trans (if_pos h)

/-- Settles O59: what `rst` leaves is the reset state but for what belongs to the host. -/
theorem resetLeaves : Obligations.ResetLeaves := by
  refine fun s => ⟨resetEvent s, rfl, fun r => ?_, rfl, rfl, rfl, rfl, fun v => ?_, rfl, rfl, rfl, rfl, rfl, rfl, rfl,
    rfl, rfl, rfl, rfl, rfl, fun c => ?_, fun c a => ?_, fun c a => ?_, fun c => ?_, fun i hi => reset_lut hi, rfl,
    rfl, rfl, rfl, rfl, rfl, rfl, rfl⟩
  · cases r with
    | voice v r => cases v <;> cases r <;> rfl
    | effect r => cases r <;> rfl
  · cases v <;> exact ⟨rfl, rfl, rfl, rfl, rfl, rfl, rfl, rfl, rfl, rfl⟩
  all_goals cases c <;> rfl

end Sys2Proof.Proofs
end

section
/-!
What a tick reads from the rings `DL` and `RH` and the one cell of each that it writes (20_memory.md R61, R62;
44_effects_bus.md R185, R186, R188).
-/

open Sys2Proof Sys2Proof.Machine

namespace Sys2Proof.Proofs

/-- The cell `d` ticks back, as an integer: a remainder by a positive length is no negative number. -/
theorem ringIndex_eq_emod (t d : Nat) {n : Nat} (h : 0 < n) : (ringIndex t d n : Int) = ((t : Int) - d) % (n : Int) :=
  Int.toNat_of_nonneg (Int.emod_nonneg _ (by omega))

theorem tickEvent_dl (cfg : Config) (src : Triple Rat) {s : State} (hr : s.run = .running) (hx : s.fx.fxv = true)
    (c : Chan) : (tickEvent cfg src s).dl.get c = delayNext cfg src s c := by
  rw [tickEvent_active cfg src hr hx, tickActive_dl, Stereo.get_each]

theorem tickEvent_rh (cfg : Config) (src : Triple Rat) {s : State} (hr : s.run = .running) (hx : s.fx.fxv = true)
    (c : Chan) : (tickEvent cfg src s).rh.get c = historyNext cfg src s c := by
  rw [tickEvent_active cfg src hr hx, tickActive_rh, Stereo.get_each]

/-- The reverb output: the model's sum over a list of indices is the sum over their range. -/
theorem routSig_eq_sum (cfg : Config) (src : Triple Rat) (s : State) (c : Chan) :
    routSig cfg src s c = ∑ i ∈ Finset.range s.fx.irLen,
      memRead (s.ir.get c) i * memRead (historyNext cfg src s c) (ringIndex s.t i (rhLen cfg)) := rfl

/-- Settles O46: the line after the tick is the line before it with one write, at the cell of `t`. -/
theorem tickDelayLine : Obligations.TickDelayLine := by
  intro s src c hr hx hwf cfg D cell after
  have hafter : after = memWrite (s.dl.get c) cell (cfg.q (dinSig cfg src s c)) := tickEvent_dl cfg src hr hx c
  refine ⟨rfl, rfl, ringIndex_eq_emod s.t D (dlLen_pos cfg), ?_, fun a ha => ?_⟩
  · rw [hafter]
    exact memRead_memWrite_same cell _ hwf
  · rw [hafter]
    exact memRead_memWrite_ne _ _ ha

/-- Settles O47: the history after the tick is the old one with one write, and the convolution reads the new one. -/
theorem tickReverb : Obligations.TickReverb := by
  intro s src c hr hx hwf cfg cell after
  have hafter : after = historyNext cfg src s c := tickEvent_rh cfg src hr hx c
  refine ⟨rfl, ?_, fun a ha => ?_, ?_⟩
  · rw [hafter]
    exact memRead_memWrite_same cell _ hwf
  · rw [hafter]
    exact memRead_memWrite_ne _ _ ha
  · rw [hafter]
    exact routSig_eq_sum cfg src s c

end Sys2Proof.Proofs
end

section
/-!
Traces with some of their commands left out. Where a part of the state can be erased so that no item left in reads it
and the items left out write nothing else, the output frames are the same with and without those items.
-/

open Sys2Proof Sys2Proof.Machine Sys2Proof.Claims

namespace Sys2Proof.Proofs

theorem actRun_of_execWord {w : Word} {s t : State} (h : execWord w s = .next t) : (Act.cmd w).run s = t := by
  simp only [Act.run, h]

theorem playFrames_cmd (w : Word) (acts : List Act) (s : State) :
    playFrames (.cmd w :: acts) s = playFrames acts ((Act.cmd w).run s) := rfl

theorem playFrames_tick (src : Triple Rat) (acts : List Act) (s : State) :
    playFrames (.tick src :: acts) s =
      (if s.run = .running then [((Act.tick src).run s).ports.out] else []) ++
        playFrames acts ((Act.tick src).run s) := rfl

section

variable {erase : State → State} {keep : Act → Bool} {s t : State}

/-- The same item at the head of two traces adds the same frames, where the states agree off what is erased. -/
theorem playFrames_cons_congr {a : Act} {as bs : List Act} (hrun : ∀ s, (erase s).run = s.run)
    (hout : ∀ s, (erase s).ports.out = s.ports.out) (h : erase s = erase t) (ha : erase (a.run s) = erase (a.run t))
    (has : playFrames as (a.run s) = playFrames bs (a.run t)) : playFrames (a :: as) s = playFrames (a :: bs) t := by
  cases a with
  | cmd w => exact has
  | tick src =>
    have hr : s.run = t.run := by rw [← hrun s, h, hrun]
    have ho : ((Act.tick src).run s).ports.out = ((Act.tick src).run t).ports.out := by
      rw [← hout, ha, hout]
    rw [playFrames_tick, playFrames_tick, hr, ho, has]

/-- Noninterference, by induction on the trace: what is left in does not read the erased part, what is left out is a
command and writes no other part. -/
theorem playFrames_filter_of_erase {acts : List Act} (hrun : ∀ s, (erase s).run = s.run)
    (hout : ∀ s, (erase s).ports.out = s.ports.out) (htick : ∀ src, keep (.tick src) = true)
    (hkeep : ∀ a ∈ acts, keep a = true → ∀ s, erase (a.run s) = erase (a.run (erase s)))
    (hdrop : ∀ a ∈ acts, keep a = false → ∀ s, erase (a.run s) = erase s) (h : erase s = erase t) :
    playFrames (acts.filter keep) s = playFrames acts t := by
  induction acts generalizing s t with
  | nil => rfl
  | cons a acts ih =>
    have ih {s t : State} (h : erase s = erase t) : playFrames (acts.filter keep) s = playFrames acts t :=
      ih (fun b hb => hkeep b (.tail _ hb)) (fun b hb => hdrop b (.tail _ hb)) h
    cases hk : keep a with
    | true =>
      have ha : erase (a.run s) = erase (a.run t) := by
        rw [hkeep a (.head _) hk s, h, ← hkeep a (.head _) hk t]
      rw [List.filter_cons_of_pos hk]
      exact playFrames_cons_congr hrun hout h ha (ih ha)
    | false =>
      rw [List.filter_cons_of_neg (by simp [hk])]
      cases a with
      | tick src => exact nomatch (htick src).symm.trans hk
      | cmd w =>
        rw [playFrames_cmd]
        exact ih (h.trans (hdrop _ (.head _) hk t).symm)

end

end Sys2Proof.Proofs
end

section
/-!
The staged bank is not heard before an APPLY (20_memory.md R71, 70_reset_and_hazards.md R255). A register write leaves
its trace in three places: the bank, the flag of an illegal word, and the responses, which also show the bank to `RDP`
and the flag to `RDS`. Of all instructions APPLY alone carries the bank to the rest of the state.
-/

open Sys2Proof Sys2Proof.Machine Sys2Proof.Claims

namespace Sys2Proof.Proofs

/-- The state with everything a register write can be seen in blanked out. -/
def unstaged (s : State) : State := { s with patch := Patch.reset, errIll := false, rq := [] }

theorem unstaged_unstaged (s : State) : unstaged (unstaged s) = unstaged s := rfl

theorem unstaged_raiseError_illegal (s : State) : unstaged (raiseError .illegal s) = unstaged s := rfl

/-! ### Register writes -/

theorem unstaged_execWrp {r : PatchReg} {x : Half} {s t : State} (h : execWrp r x s = .next t) :
    unstaged t = unstaged s := by
  rcases execWrp_cases h with ⟨-, rfl⟩ | rfl
  · rfl
  · rfl

theorem decode_of_opField_one {w : Word} (h : opField w = 1) : decode w = decodeWrp w := by
  rw [decode, h]
  rfl

/-- A word of opcode 1 is a `WRP` or illegal (30_encoding.md R84). -/
theorem unstaged_run_of_opField_one {w : Word} (hw : opField w = 1) (s : State) :
    unstaged ((Act.cmd w).run s) = unstaged s := by
  cases hd : decode w with
  | error x => rw [actRun_of_execWord (execWord_error hd s), unstaged_raiseError_illegal]
  | ok i =>
    obtain ⟨r, rfl, -⟩ := decodeWrp_eq_ok ((decode_of_opField_one hw).symm.trans hd)
    obtain ⟨t, ht⟩ := execWord_next w s
    rw [actRun_of_execWord ht]
    exact unstaged_execWrp ((execWord_ok hd s).symm.trans ht)

/-! ### The other instructions -/

theorem unstaged_whenStarted {f : State → State} {s : State} (h : unstaged (f s) = unstaged (f (unstaged s))) :
    unstaged (whenStarted f s) = unstaged (whenStarted f (unstaged s)) := by
  by_cases hr : s.run = .uninit
  · rw [whenStarted_uninit f hr, whenStarted_uninit f (s := unstaged s) hr]
    rfl
  · rw [whenStarted_started f hr, whenStarted_started f (s := unstaged s) hr]
    exact h

theorem unstaged_trigger (f : Adsr → Envelope → Nat → Envelope) (v : VoiceId) (s : State) :
    unstaged (trigger f v s) = unstaged (trigger f v (unstaged s)) := by
  cases hp : (s.voices.get v).present with
  | false => rw [trigger_absent hp, trigger_absent (s := unstaged s) hp]; rfl
  | true => rw [trigger_present hp, trigger_present (s := unstaged s) hp]; rfl

theorem unstaged_beginCapture (s : State) : unstaged (beginCapture s) = unstaged (beginCapture (unstaged s)) := by
  cases hc : s.cap with
  | idle => rw [beginCapture_idle hc, beginCapture_idle (s := unstaged s) hc]; rfl
  | recording => rw [beginCapture_recording hc, beginCapture_recording (s := unstaged s) hc]; rfl

theorem unstaged_stopEngine (s : State) : unstaged (stopEngine s) = unstaged (stopEngine (unstaged s)) := by
  by_cases hr : s.run = .running
  · rw [stopEngine_running hr, stopEngine_running (s := unstaged s) hr]; rfl
  · rw [stopEngine_stopped hr, stopEngine_stopped (s := unstaged s) hr]; rfl

theorem execCapstop_idle {s : State} (h : s.cap = .idle) : execCapstop s = .next (raiseError .capture s) := by
  rw [execCapstop, h]

theorem execCapstop_recording {s : State} (h : s.cap = .recording) : execCapstop s = .next (endCapture s) := by
  rw [execCapstop, h]

theorem unstaged_execCapstop {s t u : State} (ht : execCapstop s = .next t) (hu : execCapstop (unstaged s) = .next u) :
    unstaged t = unstaged u := by
  cases hc : s.cap with
  | idle =>
    cases (execCapstop_idle hc).symm.trans ht
    cases (execCapstop_idle (s := unstaged s) hc).symm.trans hu
    rfl
  | recording =>
    cases (execCapstop_recording hc).symm.trans ht
    cases (execCapstop_recording (s := unstaged s) hc).symm.trans hu
    rfl

/-- No instruction but APPLY carries the bank, the flag or the responses to the rest of the state. -/
theorem unstaged_exec {i : Instr} (hi : i ≠ .apply) {s t u : State} (ht : exec i s = .next t)
    (hu : exec i (unstaged s) = .next u) : unstaged t = unstaged u := by
  cases i with
  | apply => exact absurd rfl hi
  | wrp r x => rw [unstaged_execWrp ht, unstaged_execWrp hu, unstaged_unstaged]
  | nop | rdp r | rds r => cases ht; cases hu; rfl
  | attack v | release v => cases ht; cases hu; exact unstaged_whenStarted (unstaged_trigger _ v s)
  | start => cases ht; cases hu; rw [startEngine_eq, startEngine_eq]; rfl
  | stop => cases ht; cases hu; exact unstaged_stopEngine s
  | capstart => cases ht; cases hu; exact unstaged_whenStarted (unstaged_beginCapture s)
  | capstop => exact unstaged_execCapstop ht hu

theorem unstaged_execWord {w : Word} (hw : decode w ≠ .ok .apply) {s t u : State} (ht : execWord w s = .next t)
    (hu : execWord w (unstaged s) = .next u) : unstaged t = unstaged u := by
  cases hd : decode w with
  | error x =>
    cases (execWord_error hd s).symm.trans ht
    cases (execWord_error hd _).symm.trans hu
    rfl
  | ok i =>
    rw [execWord_ok hd] at ht hu
    exact unstaged_exec (fun hi => hw (hi ▸ hd)) ht hu

/-! ### Ticks and traces -/

/-- The render agent never reads the staged bank (20_memory.md R71). -/
theorem unstaged_tickEvent (cfg : Config) (src : Triple Rat) (s : State) :
    unstaged (tickEvent cfg src s) = unstaged (tickEvent cfg src (unstaged s)) := by
  by_cases hr : s.run = .running
  · cases hx : s.fx.fxv with
    | false => rw [tickEvent_silent cfg src hr hx, tickEvent_silent cfg src (s := unstaged s) hr hx]; rfl
    | true => rw [tickEvent_active cfg src hr hx, tickEvent_active cfg src (s := unstaged s) hr hx]; rfl
  · rw [tickEvent_stopped cfg src hr, tickEvent_stopped cfg src (s := unstaged s) hr]; rfl

theorem decode_ne_apply {w : Word} (h : notApply (.cmd w) = true) : decode w ≠ .ok .apply := fun hd =>
  bne_iff_ne.1 h (encode_of_decode hd).1.symm

theorem unstaged_run {a : Act} (h : notApply a = true) (s : State) :
    unstaged (a.run s) = unstaged (a.run (unstaged s)) := by
  cases a with
  | tick src => exact unstaged_tickEvent Config.build src s
  | cmd w =>
    obtain ⟨t, ht⟩ := execWord_next w s
    obtain ⟨u, hu⟩ := execWord_next w (unstaged s)
    rw [actRun_of_execWord ht, actRun_of_execWord hu]
    exact unstaged_execWord (decode_ne_apply h) ht hu

theorem unstaged_run_of_write {a : Act} (h : notWrite a = false) (s : State) :
    unstaged (a.run s) = unstaged s := by
  cases a with
  | tick src => exact nomatch h
  | cmd w => exact unstaged_run_of_opField_one (bne_eq_false_iff_eq.1 h) s

/-- Settles O33: a register write changes only what `unstaged` blanks out, and without an APPLY nothing else is computed
from that. -/
theorem writesAreSilentUntilApply : Obligations.WritesAreSilentUntilApply := fun _ _ hacts =>
  playFrames_filter_of_erase (erase := unstaged) (keep := notWrite) (fun _ => rfl) (fun _ => rfl) (fun _ => rfl)
    (fun a ha _ => unstaged_run (hacts a ha)) (fun _ _ => unstaged_run_of_write) rfl

end Sys2Proof.Proofs
end

section
/-!
Words over the transport and in the queues (20_memory.md R66; 30_encoding.md R80 to R92). The bytes of a word put
together again are the word; a word encodes an instruction exactly when it decodes; every command, legal or not, is
answered by one response word.
-/

open Sys2Proof Sys2Proof.Machine Sys2Proof.Claims

namespace Sys2Proof.Proofs

/-! ### Bytes -/

theorem readHalf_halfBytes (h : Half) (rest : List Byte) : readHalf (halfBytes h ++ rest) = some (h, rest) := by
  have hjoin : h.extractLsb' 8 8 ++ h.extractLsb' 0 8 = h :=
    BitVec.extractLsb'_append_extractLsb' (w := 8) (len := 8)
  exact congrArg (fun x => some (x, rest)) hjoin

theorem readWord_wordBytes (w : Word) (rest : List Byte) : readWord (wordBytes w ++ rest) = some (w, rest) := by
  have hjoin : w.extractLsb' 24 8 ++ w.extractLsb' 16 8 ++ w.extractLsb' 8 8 ++ w.extractLsb' 0 8 = w := by
    rw [BitVec.extractLsb'_append_extractLsb'_eq_extractLsb' (start₂ := 24) rfl,
      BitVec.extractLsb'_append_extractLsb'_eq_extractLsb' (start₂ := 16) rfl]
    exact BitVec.extractLsb'_append_extractLsb' (w := 24) (len := 8)
  exact congrArg (fun x => some (x, rest)) hjoin

theorem decodeBytes_wordBytes (w : Word) (rest : List Byte) :
    decodeBytes (wordBytes w ++ rest) = some (decode w, rest) := by
  rw [decodeBytes, readWord_wordBytes]
  rfl

theorem byte_toNat {n : Nat} (x : BitVec n) (k : Nat) : (x.extractLsb' k 8).toNat = x.toNat / 2 ^ k % 256 := by
  rw [BitVec.extractLsb'_toNat, Nat.shiftRight_eq_div_pow]

theorem lowByte_toNat {n : Nat} (x : BitVec n) : (x.extractLsb' 0 8).toNat = x.toNat % 256 := by
  rw [byte_toNat, pow_zero, Nat.div_one]

/-- The top byte is what is left after the division, with no digit above it. -/
theorem topByte_toNat {k : Nat} (x : BitVec (8 + k)) : (x.extractLsb' k 8).toNat = x.toNat / 2 ^ k := by
  have hx : x.toNat < 2 ^ k * 256 := x.isLt.trans_eq (by rw [pow_add, mul_comm]; rfl)
  rw [byte_toNat, Nat.mod_eq_of_lt (Nat.div_lt_of_lt_mul hx)]

theorem wordBytes_toNat (w : Word) : (wordBytes w).map BitVec.toNat =
    [w.toNat % 256, w.toNat / 256 % 256, w.toNat / 65536 % 256, w.toNat / 16777216] := by
  simp only [wordBytes, List.map]
  rw [lowByte_toNat, byte_toNat w 8, byte_toNat w 16, topByte_toNat (k := 24) w]
  rfl

theorem halfBytes_toNat (h : Half) : (halfBytes h).map BitVec.toNat = [h.toNat % 256, h.toNat / 256] := by
  simp only [halfBytes, List.map]
  rw [lowByte_toNat, topByte_toNat (k := 8) h]
  rfl

/-- Settles O35: the two directions of the decoder, and the bytes of a word put together again. -/
theorem decodeEncode : Obligations.DecodeEncode :=
  ⟨fun _ => decode_encode, fun _ _ h => (encode_of_decode h).symm, decodeBytes_wordBytes, readWord_wordBytes,
    readHalf_halfBytes, wordBytes_toNat, halfBytes_toNat, fun _ => rfl⟩

/-! ### Legal and illegal words -/

/-- The word of an instruction has the mask and match bits of its row (30_encoding.md R84). -/
theorem encode_rowBits (i : Instr) : encode i &&& rowMask i = rowMatch i := by
  cases i with
  | nop => exact Laws.RowBits.nop
  | wrp r x => exact Laws.RowBits.wrp r x
  | rdp r => exact Laws.RowBits.rdp r
  | rds r => exact Laws.RowBits.rds r
  | apply => exact Laws.RowBits.apply
  | attack v => exact Laws.RowBits.attack v
  | release v => exact Laws.RowBits.release v
  | start => exact Laws.RowBits.start
  | stop => exact Laws.RowBits.stop
  | capstart => exact Laws.RowBits.capstart
  | capstop => exact Laws.RowBits.capstop

theorem encode_ne_of_decode_error {w : Word} {x : IllegalWord} (h : decode w = .error x) {i : Instr}
    (hi : i.wellFormed = true) : encode i ≠ w := by
  rintro rfl
  exact nomatch (decode_encode hi).symm.trans h

theorem encode_injective {i j : Instr} (hi : i.wellFormed = true) (hj : j.wellFormed = true)
    (h : encode i = encode j) : i = j := by
  have hdec : decode (encode j) = .ok i := h ▸ decode_encode hi
  exact Except.ok.inj (hdec.symm.trans (decode_encode hj))

/-- Settles O34: a word that decodes is the word of its instruction; one that does not is that of none. -/
theorem illegalWordRule : Obligations.IllegalWordRule := by
  intro w s
  cases hd : decode w with
  | ok i =>
    obtain ⟨rfl, hwf⟩ := encode_of_decode hd
    exact .inl ⟨i, hwf, rfl, encode_rowBits i, execWord_ok hd s⟩
  | error x =>
    exact .inr ⟨fun _ => encode_ne_of_decode_error hd, execWord_error hd s⟩

/-! ### The fields of a response word -/

theorem respWord_data (c : RespCode) (d : Half) : (respWord c d).extractLsb' 0 16 = d :=
  BitVec.extractLsb'_append_eq_right

theorem respWord_gap (c : RespCode) (d : Half) : (respWord c d).extractLsb' 16 12 = 0 :=
  (BitVec.extractLsb'_append_eq_of_le (le_refl 16)).trans BitVec.extractLsb'_append_eq_right

theorem respWord_code (c : RespCode) (d : Half) : (respWord c d).extractLsb' 28 4 = respCodeBits c :=
  (BitVec.extractLsb'_append_eq_of_le (by decide)).trans BitVec.extractLsb'_append_eq_left

theorem respCodeBits_le (c : RespCode) : (respCodeBits c).toNat ≤ 2 := by cases c <;> decide

/-! ### The answer to an instruction -/

theorem execWrp_legal {r : PatchReg} {x : Half} (h : immLegal r x = true) (s : State) :
    execWrp r x s = .next (respond .ok 0 { s with patch := s.patch.write r x }) :=
  if_pos h

theorem execWrp_illegal {r : PatchReg} {x : Half} (h : immLegal r x = false) (s : State) :
    execWrp r x s = .next (raiseError .illegal s) :=
  if_neg (Bool.not_eq_true _ ▸ h)

/-- One response word more, and no word taken from or given to the command queue. -/
structure Answered (c : RespCode) (d : Half) (s t : State) : Prop where
  cq : t.cq = s.cq
  rq : t.rq = s.rq ++ [respWord c d]

/-- The code of the response to an instruction: only `WRP` and `CAPSTOP` can be in error (30_encoding.md R83). -/
def answerCode (s : State) : Instr → RespCode
  | .wrp r x => if immLegal r x then .ok else .errIllegal
  | .capstop => if s.cap = .recording then .ok else .errCapture
  | _ => .ok

/-- The data of the response to an instruction (30_encoding.md R82). -/
def answerData (s : State) : Instr → Half
  | .rdp r => s.patch.read r
  | .rds r => statusRead s r
  | _ => 0

theorem respond_answered (c : RespCode) (d : Half) (s : State) : Answered c d s (respond c d s) := ⟨rfl, rfl⟩

theorem whenStarted_answered {f : State → State} {s : State} (h : Answered .ok 0 s (f s)) :
    Answered .ok 0 s (whenStarted f s) := by
  by_cases hr : s.run = .uninit
  · rw [whenStarted_uninit f hr]; exact respond_answered _ _ s
  · rw [whenStarted_started f hr]; exact h

theorem reconcile_answered (cfg : Config) (s : State) : Answered .ok 0 s (reconcile cfg s) := by
  rcases reconcile_cases cfg s with ⟨_, e⟩ | ⟨_, e⟩
  · rw [e]; exact ⟨rfl, rfl⟩
  · rw [e]; exact ⟨rfl, rfl⟩

theorem trigger_answered (f : Adsr → Envelope → Nat → Envelope) (v : VoiceId) (s : State) :
    Answered .ok 0 s (trigger f v s) := by
  cases hp : (s.voices.get v).present with
  | false => rw [trigger_absent hp]; exact respond_answered _ _ s
  | true => rw [trigger_present hp]; exact ⟨rfl, rfl⟩

theorem beginCapture_answered (s : State) : Answered .ok 0 s (beginCapture s) := by
  cases hc : s.cap with
  | idle => rw [beginCapture_idle hc]; exact ⟨rfl, rfl⟩
  | recording => rw [beginCapture_recording hc]; exact respond_answered _ _ s

theorem stopEngine_queues (s : State) : (stopEngine s).cq = s.cq ∧ (stopEngine s).rq = s.rq := by
  by_cases hr : s.run = .running
  · rw [stopEngine_running hr]; exact ⟨rfl, rfl⟩
  · rw [stopEngine_stopped hr]; exact ⟨rfl, rfl⟩

theorem execWrp_answered {r : PatchReg} {x : Half} {s t : State} (h : execWrp r x s = .next t) :
    Answered (answerCode s (.wrp r x)) 0 s t := by
  rw [answerCode]
  cases hx : immLegal r x with
  | true => cases (execWrp_legal hx s).symm.trans h; exact ⟨rfl, rfl⟩
  | false => cases (execWrp_illegal hx s).symm.trans h; exact ⟨rfl, rfl⟩

theorem execCapstop_answered {s t : State} (h : execCapstop s = .next t) :
    Answered (answerCode s .capstop) 0 s t := by
  rw [answerCode]
  cases hc : s.cap with
  | idle => cases (execCapstop_idle hc).symm.trans h; exact ⟨rfl, rfl⟩
  | recording => cases (execCapstop_recording hc).symm.trans h; exact ⟨rfl, rfl⟩

/-- Every instruction is answered by one response word (30_encoding.md R82). -/
theorem exec_answered {i : Instr} {s t : State} (h : exec i s = .next t) :
    Answered (answerCode s i) (answerData s i) s t := by
  cases i with
  | wrp r x => exact execWrp_answered h
  | capstop => exact execCapstop_answered h
  | nop | rdp r | rds r => cases h; exact respond_answered _ _ s
  | apply => cases h; exact whenStarted_answered (reconcile_answered _ s)
  | attack v | release v => cases h; exact whenStarted_answered (trigger_answered _ v s)
  | capstart => cases h; exact whenStarted_answered (beginCapture_answered s)
  | start => cases h; rw [startEngine_eq]; exact ⟨rfl, rfl⟩
  | stop =>
    cases h
    obtain ⟨hcq, hrq⟩ := stopEngine_queues s
    exact ⟨hcq, congrArg (· ++ _) hrq⟩

theorem answerData_of_no_read {s : State} {i : Instr} (hp : ∀ q, i ≠ .rdp q) (hs : ∀ q, i ≠ .rds q) :
    answerData s i = 0 := by
  cases i with
  | rdp q => exact absurd rfl (hp q)
  | rds q => exact absurd rfl (hs q)
  | nop | wrp r x | apply | attack v | release v | start | stop | capstart | capstop => rfl

/-! ### The answer to a command word -/

/-- The code and data that answer a word: the register that a reading command reads, and 0 for every other word, legal
or not (30_encoding.md R82, R92). -/
structure AnswersWord (s : State) (w : Word) (c : RespCode) (d : Half) : Prop where
  rdp : ∀ q, w = encode (.rdp q) → c = .ok ∧ d = s.patch.read q
  rds : ∀ q, w = encode (.rds q) → c = .ok ∧ d = statusRead s q
  other : (∀ q, w ≠ encode (.rdp q)) → (∀ q, w ≠ encode (.rds q)) → d = 0

theorem answersWord_encode {i : Instr} (h : i.wellFormed = true) (s : State) :
    AnswersWord s (encode i) (answerCode s i) (answerData s i) where
  rdp q hq := by
    obtain rfl := encode_injective h rfl hq
    exact ⟨rfl, rfl⟩
  rds q hq := by
    obtain rfl := encode_injective h rfl hq
    exact ⟨rfl, rfl⟩
  other hp hs := answerData_of_no_read (fun q hq => hp q (hq ▸ rfl)) (fun q hq => hs q (hq ▸ rfl))

theorem answersWord_illegal {w : Word} {x : IllegalWord} (h : decode w = .error x) (s : State) :
    AnswersWord s w .errIllegal 0 where
  rdp _ hq := absurd hq.symm (encode_ne_of_decode_error h rfl)
  rds _ hq := absurd hq.symm (encode_ne_of_decode_error h rfl)
  other _ _ := rfl

theorem execWord_answered {w : Word} {s t : State} (h : execWord w s = .next t) :
    ∃ c d, Answered c d s t ∧ AnswersWord s w c d := by
  cases hd : decode w with
  | ok i =>
    obtain ⟨rfl, hwf⟩ := encode_of_decode hd
    exact ⟨_, _, exec_answered ((execWord_ok hd s).symm.trans h), answersWord_encode hwf s⟩
  | error x =>
    cases (execWord_error hd s).symm.trans h
    exact ⟨_, _, ⟨rfl, rfl⟩, answersWord_illegal hd s⟩

/-- No status register shows the command queue. -/
theorem statusRead_cq (s : State) (ws : List Word) (q : StatusReg) :
    statusRead { s with cq := ws } q = statusRead s q := by
  cases q <;> rfl

/-- Settles O37: the control step executes the head word on the state without it, and whatever that word is, one
response with the fields of R82 is appended. -/
theorem responseRule : Obligations.ResponseRule := by
  refine ⟨fun s w ws hq => ?_, fun s r rs hr => ?_⟩
  · obtain ⟨t, ht⟩ := execWord_next w { s with cq := ws }
    obtain ⟨c, d, ⟨hcq, hrq⟩, hrdp, hrds, hother⟩ := execWord_answered ht
    refine ⟨t, respWord c d, (controlStep_cons hq).trans ht, hcq, hrq, respWord_gap c d,
      (respWord_code c d).symm ▸ respCodeBits_le c, fun q hw => ?_, fun q hw => ?_,
      fun hp hs => (respWord_data c d).trans (hother hp hs)⟩
    · obtain ⟨rfl, rfl⟩ := hrdp q hw
      exact respWord_ok _
    · obtain ⟨rfl, rfl⟩ := hrds q hw
      rw [statusRead_cq]
      exact respWord_ok _
  · show Host.Outcome.next { s with rq := s.rq.tail } = _
    rw [hr]
    rfl

end Sys2Proof.Proofs
end

section
/-!
The register access commands NOP, WRP, RDP and RDS (40_commands.md R104 to R106, R113), as instructions and as words.
An accepted word of a register row names its register and its immediate, so a word of the row whose fields name none
is illegal.
-/

open Sys2Proof Sys2Proof.Machine Sys2Proof.Claims

namespace Sys2Proof.Proofs

/-! ### Answers -/

theorem respond_ok (d : Half) (s : State) : respond .ok d s = okAnswer d s := by
  rw [respond, okAnswer, respWord_ok]

/-- A word that the decoder accepts as no instruction gives the illegal answer (30_encoding.md R92). -/
theorem execWord_illegal {w : Word} (h : ∀ j, decode w ≠ .ok j) (s : State) :
    execWord w s = .next (illegalAnswer s) := by
  cases hd : decode w with
  | ok j => exact absurd hd (h j)
  | error x => exact execWord_error hd s

/-! ### Words without operands -/

/-- The rows of the opcode table whose commands carry no operand (30_encoding.md R84, format Z). -/
def plainRows : List (BitVec 4 × Instr) :=
  [(0, .nop), (4, .apply), (7, .start), (8, .stop), (9, .capstart), (10, .capstop)]

theorem decode_plainRow {op : BitVec 4} {i : Instr} (h : (op, i) ∈ plainRows) {w : Word} (hop : opField w = op) :
    decode w = decodeZ i w := by
  rw [decode, hop]
  fin_cases h <;> rfl

/-- A word of a command without operands with a low bit set is illegal (30_encoding.md R89). -/
theorem execWord_plainRow_illegal {op : BitVec 4} {i : Instr} (h : (op, i) ∈ plainRows) {low : BitVec 28}
    (hlow : low ≠ 0) (s : State) : execWord (op ++ low) s = .next (illegalAnswer s) := by
  have hd : decode (op ++ low) = .error .mustBeZero := by
    rw [decode_plainRow h (opField_append op low), decodeZ_append, if_neg hlow]
  exact execWord_error hd s

/-! ### Words of the register rows -/

theorem decode_packWord_wrp {g : BitVec 4} {i : BitVec 8} {x : Half} {j : Instr}
    (h : decode (packWord 1 g i x) = .ok j) :
    ∃ r : PatchReg, r.group = g ∧ r.index = i ∧ immLegal r x = true := by
  obtain ⟨hop, hg, hi, hx⟩ := packWord_fields 1 g i x
  obtain ⟨r, -, hrg, hri, hrx⟩ := decodeWrp_eq_ok ((decode_of_opField_one hop).symm.trans h)
  exact ⟨r, hrg.trans hg, hri.trans hi, hx ▸ hrx⟩

theorem decode_packWord_rdp {g : BitVec 4} {i : BitVec 8} {x : Half} {j : Instr}
    (h : decode (packWord 2 g i x) = .ok j) : (∃ r : PatchReg, r.group = g ∧ r.index = i) ∧ x = 0 := by
  obtain ⟨hop, hg, hi, hx⟩ := packWord_fields 2 g i x
  have hrow : decode (packWord 2 g i x) = decodeRdp (packWord 2 g i x) := by rw [decode, hop]; rfl
  obtain ⟨r, -, hrg, hri, hrx⟩ := decodeRdp_eq_ok (hrow.symm.trans h)
  exact ⟨⟨r, hrg.trans hg, hri.trans hi⟩, hx.symm.trans hrx⟩

theorem decode_packWord_rds {g : BitVec 4} {i : BitVec 8} {x : Half} {j : Instr}
    (h : decode (packWord 3 g i x) = .ok j) : g = 0 ∧ (∃ r : StatusReg, r.index = i) ∧ x = 0 := by
  obtain ⟨hop, hg, hi, hx⟩ := packWord_fields 3 g i x
  have hrow : decode (packWord 3 g i x) = decodeRds (packWord 3 g i x) := by rw [decode, hop]; rfl
  obtain ⟨r, -, hrg, hri, hrx⟩ := decodeRds_eq_ok (hrow.symm.trans h)
  exact ⟨hg.symm.trans hrg, ⟨r, hri.trans hi⟩, hx.symm.trans hrx⟩

/-- A register has one place in the map (10_state.md R22). -/
theorem patchReg_ext {r r' : PatchReg} (hg : r.group = r'.group) (hi : r.index = r'.index) : r = r' := by
  have hsome : some r = some r' := by rw [← patchRegOf?_code r, hg, hi, patchRegOf?_code r']
  exact Option.some.inj hsome

/-! ### `NOP` -/

theorem exec_nop (s : State) : exec .nop s = .next (okAnswer 0 s) := by
  rw [← respond_ok]
  rfl

/-- Settles O1: `NOP` is one response, the zero word is `NOP`, and its row takes no other word. -/
theorem nopRule : Obligations.NopRule := fun s =>
  ⟨exec_nop s, (execWord_ok (by decide) s).trans (exec_nop s),
    fun _ hlow => execWord_plainRow_illegal (i := .nop) (by decide) hlow s⟩

/-! ### `WRP` -/

/-- The decoder's check of an immediate refuses the values the statements name (40_commands.md R104). -/
theorem immLegal_iff (r : PatchReg) (x : Half) : immLegal r x = true ↔ ¬ badImm r x := by
  cases r with
  | voice v r => cases r <;> simp [immLegal, PatchReg.maxLegal, badImm]
  | effect r => cases r <;> simp [immLegal, PatchReg.maxLegal, badImm]

theorem exec_wrp_legal {r : PatchReg} {x : Half} (h : immLegal r x = true) (s : State) :
    exec (.wrp r x) s = .next (okAnswer 0 { s with patch := s.patch.write r x }) :=
  (execWrp_legal h s).trans (congrArg _ (respond_ok 0 _))

theorem exec_wrp_illegal {r : PatchReg} {x : Half} (h : immLegal r x = false) (s : State) :
    exec (.wrp r x) s = .next (illegalAnswer s) :=
  execWrp_illegal h s

theorem execWord_wrp_badImm {r : PatchReg} {x : Half} (h : badImm r x) (s : State) :
    execWord (packWord 1 r.group r.index x) s = .next (illegalAnswer s) := by
  refine execWord_illegal (fun j hj => ?_) s
  obtain ⟨r', hg, hi, hx⟩ := decode_packWord_wrp hj
  obtain rfl := patchReg_ext hg hi
  exact (immLegal_iff _ x).1 hx h

theorem read_write (p : Patch) (r r' : PatchReg) (x : Half) :
    (p.write r x).read r' = if r' = r then x else p.read r' := by
  split
  · next h => rw [h, Patch.read_write_same]
  · next h => exact Patch.read_write_ne p x h

/-- Settles O2: by the register and the immediate of the word; a word whose group and index name no register decodes to
nothing. -/
theorem wrpRule : Obligations.WrpRule := by
  refine ⟨fun s g i x => ⟨?_, fun hnone => ?_⟩, read_write⟩
  · rintro r rfl rfl
    refine ⟨fun hx => ?_, fun hx => ?_⟩
    · have hlegal := (immLegal_iff r x).2 hx
      exact ⟨exec_wrp_legal hlegal s, (execWord_ok (decode_wrp hlegal) s).trans (exec_wrp_legal hlegal s)⟩
    · have hillegal : immLegal r x = false := Bool.eq_false_iff.2 fun hl => (immLegal_iff r x).1 hl hx
      exact ⟨exec_wrp_illegal hillegal s, execWord_wrp_badImm hx s⟩
  · refine execWord_illegal (fun j hj => ?_) s
    obtain ⟨r, hg, hi, -⟩ := decode_packWord_wrp hj
    exact hnone r hg hi

/-! ### `RDP` -/

theorem exec_rdp (r : PatchReg) (s : State) : exec (.rdp r) s = .next (okAnswer (s.patch.read r) s) := by
  rw [← respond_ok]
  rfl

theorem reset_read (r : PatchReg) : State.reset.patch.read r = 0 := by
  cases r with
  | voice v r => cases v <;> cases r <;> rfl
  | effect r => cases r <;> rfl

theorem runAll_cons {i : Instr} {s t : State} (h : exec i s = .next t) (is : List Instr) :
    runAll (i :: is) s = runAll is t := by
  rw [runAll, h]

/-- After a list of legal writes, a register that is in the list or held its value before holds its value. -/
theorem runAll_writes {f : PatchReg → Half} {rs : List PatchReg} (hf : ∀ r ∈ rs, ¬ badImm r (f r)) (s : State) :
    ∃ t, runAll (rs.map fun r => .wrp r (f r)) s = some t ∧
      ∀ r, r ∈ rs ∨ s.patch.read r = f r → t.patch.read r = f r := by
  induction rs generalizing s with
  | nil => exact ⟨s, rfl, fun r hr => hr.resolve_left (List.not_mem_nil)⟩
  | cons q rs ih =>
    have hlegal := (immLegal_iff q (f q)).2 (hf q (.head _))
    obtain ⟨t, ht, hread⟩ := ih (fun r hr => hf r (.tail _ hr)) (okAnswer 0 { s with patch := s.patch.write q (f q) })
    refine ⟨t, (runAll_cons (exec_wrp_legal hlegal s) _).trans ht, fun r hr => hread r ?_⟩
    have hwrite : (okAnswer 0 { s with patch := s.patch.write q (f q) }).patch.read r =
        if r = q then f q else s.patch.read r := read_write s.patch q r (f q)
    by_cases hrq : r = q
    · exact .inr (by rw [hwrite, if_pos hrq, hrq])
    · rw [hwrite, if_neg hrq]
      exact hr.imp_left fun hmem => (List.mem_cons.1 hmem).resolve_left hrq

/-- Settles O3: the answer is the register's contents, and a list of writes leaves each of its registers at the value
written, by induction on the list. -/
theorem rdpRule : Obligations.RdpRule := by
  refine ⟨fun s g i x => ⟨?_, fun h => ?_⟩, reset_read, fun f rs s hf => ?_⟩
  · rintro r rfl rfl rfl
    exact ⟨exec_rdp r s, (execWord_ok (decode_rdp r) s).trans (exec_rdp r s)⟩
  · refine execWord_illegal (fun j hj => ?_) s
    obtain ⟨⟨r, hg, hi⟩, hx⟩ := decode_packWord_rdp hj
    exact h.elim (fun hne => hne hx) (fun hnone => hnone r hg hi)
  · obtain ⟨t, ht, hread⟩ := runAll_writes hf s
    exact ⟨t, ht, fun r hr => hread r (.inl hr) ▸ exec_rdp r t⟩

/-! ### `RDS` -/

/-- The indices of the status registers (30_encoding.md R88). -/
theorem mem_statusIndices_iff (k : Nat) :
    k ∈ [0, 1, 2, 3, 4, 5, 6, 8, 9, 10] ↔ ∃ r : StatusReg, r.index.toNat = k := by
  constructor
  · intro hk
    obtain ⟨q, -, hq⟩ : ∃ q ∈ statusMap, q.2.index.toNat = k := by
      revert k
      decide
    exact ⟨q.2, hq⟩
  · rintro ⟨r, rfl⟩
    cases r <;> decide

/-- Settles O4: `RDS` is one response with the register's present value; its row takes no word but those of the ten
registers. -/
theorem rdsRule : Obligations.RdsRule := by
  refine ⟨fun s g i x => ⟨?_, fun h => ?_⟩, mem_statusIndices_iff, by decide, by decide⟩
  · rintro r rfl rfl rfl
    exact ⟨execRds_eq r s, (execWord_ok (decode_encode (i := .rds r) rfl) s).trans (execRds_eq r s)⟩
  · refine execWord_illegal (fun j hj => ?_) s
    obtain ⟨hg, ⟨r, hi⟩, hx⟩ := decode_packWord_rds hj
    rcases h with hne | hne | hnone
    · exact hne hg
    · exact hne hx
    · exact hnone ((mem_statusIndices_iff _).2 ⟨r, congrArg BitVec.toNat hi⟩)

end Sys2Proof.Proofs
end

section
/-!
The run state (40_commands.md R103, R107 to R109). START and STOP write it; APPLY, the triggers and CAPSTART look at it
once, to see whether the engine was ever started; no other command but `RDS STATUS` reads it.
-/

open Sys2Proof Sys2Proof.Machine Sys2Proof.Claims

namespace Sys2Proof.Proofs

/-- The state with its run state replaced. -/
def withRun (r : RunState) (s : State) : State := { s with run := r }

/-- Written with what it is, the run state stays. -/
theorem withRun_self {r : RunState} {s : State} (h : s.run = r) : withRun r s = s := by
  subst h
  rfl

/-! ### `START` and `STOP` -/

theorem exec_start (s : State) : exec .start s = .next (okAnswer 0 (withRun .running s)) := by
  rw [← respond_ok, withRun, ← startEngine_eq]
  rfl

theorem exec_stop (s : State) : exec .stop s = .next (okAnswer 0 (stopEngine s)) := by
  rw [← respond_ok]
  rfl

theorem exec_stop_running {s : State} (h : s.run = .running) : exec .stop s = .next (stopped s) := by
  rw [exec_stop, stopEngine_running h]
  rfl

theorem exec_stop_stopped {s : State} (h : s.run ≠ .running) : exec .stop s = .next (okAnswer 0 s) := by
  rw [exec_stop, stopEngine_stopped h]

/-- Settles O9: `START` in the three run states is one write of the run state. -/
theorem startRule : Obligations.StartRule :=
  ⟨fun s => ⟨exec_start s, (execWord_ok (by decide) s).trans (exec_start s),
    fun _ hlow => execWord_plainRow_illegal (i := .start) (by decide) hlow s⟩,
    _, exec_start State.reset, by decide⟩

/-- Tick pulses while not RUNNING leave everything but the ports (40_commands.md R110). -/
theorem ticks_stopped (srcs : List (Triple Rat)) {s : State} (h : s.run ≠ .running) :
    ∃ p : Ports, ticks srcs s = { s with ports := p } := by
  induction srcs generalizing s with
  | nil => exact ⟨s.ports, rfl⟩
  | cons src srcs ih =>
    have hfirst : ticks (src :: srcs) s = ticks srcs (tickIdle s) :=
      congrArg (ticks srcs) (tickEvent_stopped Config.build src h)
    obtain ⟨p, hp⟩ := ih (s := tickIdle s) h
    exact ⟨p, hfirst.trans hp⟩

/-- `START` after a `STOP` that acted, with other ports, gives back the run state the `STOP` found. -/
theorem exec_start_stopped {s : State} (h : s.run = .running) (p : Ports) :
    exec .start { stopped s with ports := p } = .next (okAnswer 0 (okAnswer 0 { s with ports := p })) :=
  calc exec .start { stopped s with ports := p }
      = .next (okAnswer 0 (okAnswer 0 (withRun .running { s with ports := p }))) := exec_start _
    _ = .next (okAnswer 0 (okAnswer 0 { s with ports := p })) := by
      rw [withRun_self (s := { s with ports := p }) h]

/-- Settles O10: the pulses after a `STOP` find the engine suspended, so they write the ports alone, and `START` puts
the run state back. -/
theorem stopRule : Obligations.StopRule := by
  refine fun s => ⟨exec_stop_running, exec_stop_stopped, execWord_ok (by decide) s,
    fun _ hlow => execWord_plainRow_illegal (i := .stop) (by decide) hlow s, fun hr srcs => ?_⟩
  have hsuspended : (stopped s).run ≠ .running := nofun
  obtain ⟨p, hp⟩ := ticks_stopped srcs hsuspended
  exact ⟨p, hp ▸ exec_start_stopped hr p⟩

/-! ### Commands that act in every run state -/

/-- From `s`, the instruction neither reads nor writes the run state. -/
def RunBlind (i : Instr) (s : State) : Prop :=
  ∀ r : RunState, ∃ t, exec i s = .next t ∧ exec i (withRun r s) = .next (withRun r t)

theorem nop_runBlind (s : State) : RunBlind .nop s := fun _ => ⟨_, rfl, rfl⟩

theorem rdp_runBlind (q : PatchReg) (s : State) : RunBlind (.rdp q) s := fun _ => ⟨_, rfl, rfl⟩

theorem wrp_runBlind (q : PatchReg) (x : Half) (s : State) : RunBlind (.wrp q x) s := fun r => by
  cases hx : immLegal q x with
  | true => exact ⟨_, execWrp_legal hx s, execWrp_legal hx (withRun r s)⟩
  | false => exact ⟨_, execWrp_illegal hx s, execWrp_illegal hx (withRun r s)⟩

theorem capstop_runBlind (s : State) : RunBlind .capstop s := fun r => by
  cases hc : s.cap with
  | idle => exact ⟨_, execCapstop_idle hc, execCapstop_idle (s := withRun r s) hc⟩
  | recording => exact ⟨_, execCapstop_recording hc, execCapstop_recording (s := withRun r s) hc⟩

/-- `STATUS` is the one status register that shows the run state (10_state.md R30). -/
theorem statusRead_withRun {q : StatusReg} (h : q ≠ .status) (r : RunState) (s : State) :
    statusRead (withRun r s) q = statusRead s q := by
  cases q with
  | status => exact absurd rfl h
  | envstate | tick0 | tick1 | tick2 | tick3 | route | epoch0 | epoch1 | epoch2 => rfl

theorem rds_runBlind {q : StatusReg} (h : q ≠ .status) (s : State) : RunBlind (.rds q) s := fun r => by
  refine ⟨_, execRds_eq q s, ?_⟩
  rw [execRds_eq, statusRead_withRun h]
  rfl

/-! ### Commands that wait for the first `START` -/

/-- Only answered while UNINIT, START and STOP apart (40_commands.md R103). -/
def waitsForStart : Instr → Bool
  | .apply | .attack _ | .release _ | .capstart => true
  | _ => false

theorem reconcile_withRun (cfg : Config) (r : RunState) (s : State) :
    reconcile cfg (withRun r s) = withRun r (reconcile cfg s) := by
  rcases reconcile_cases cfg s with ⟨h, e⟩ | ⟨h, e⟩
  · rcases reconcile_cases cfg (withRun r s) with ⟨-, e'⟩ | ⟨h', -⟩
    · rw [e, e']; rfl
    · exact absurd h h'
  · rcases reconcile_cases cfg (withRun r s) with ⟨h', -⟩ | ⟨-, e'⟩
    · exact absurd h' h
    · rw [e, e']; rfl

theorem trigger_withRun (f : Adsr → Envelope → Nat → Envelope) (v : VoiceId) (r : RunState) (s : State) :
    trigger f v (withRun r s) = withRun r (trigger f v s) := by
  cases hp : (s.voices.get v).present with
  | false => rw [trigger_absent hp, trigger_absent (s := withRun r s) hp]; rfl
  | true => rw [trigger_present hp, trigger_present (s := withRun r s) hp]; rfl

theorem beginCapture_withRun (r : RunState) (s : State) :
    beginCapture (withRun r s) = withRun r (beginCapture s) := by
  cases hc : s.cap with
  | idle => rw [beginCapture_idle hc, beginCapture_idle (s := withRun r s) hc]; rfl
  | recording => rw [beginCapture_recording hc, beginCapture_recording (s := withRun r s) hc]; rfl

/-- Such a command looks at the run state once; what it does then neither reads nor writes it. -/
theorem exec_waitsForStart {i : Instr} (h : waitsForStart i = true) : ∃ f : State → State,
    (∀ s, exec i s = .next (whenStarted f s)) ∧ ∀ r s, f (withRun r s) = withRun r (f s) := by
  cases i with
  | apply => exact ⟨_, fun _ => rfl, reconcile_withRun _⟩
  | attack v | release v => exact ⟨_, fun _ => rfl, trigger_withRun _ v⟩
  | capstart => exact ⟨_, fun _ => rfl, beginCapture_withRun⟩
  | nop | wrp q x | rdp q | rds q | start | stop | capstop => exact nomatch h

theorem exec_waitsForStart_uninit {i : Instr} (h : waitsForStart i = true) {s : State} (hs : s.run = .uninit) :
    exec i s = .next (okAnswer 0 s) := by
  obtain ⟨f, hexec, -⟩ := exec_waitsForStart h
  rw [hexec, whenStarted_uninit f hs, respond_ok]

theorem exec_waitsForStart_started {i : Instr} (h : waitsForStart i = true) {r : RunState} {s : State}
    (hs : s.run ≠ .uninit) (hr : r ≠ .uninit) :
    ∃ t, exec i s = .next t ∧ exec i (withRun r s) = .next (withRun r t) := by
  obtain ⟨f, hexec, hf⟩ := exec_waitsForStart h
  refine ⟨f s, ?_, ?_⟩
  · rw [hexec, whenStarted_started f hs]
  · rw [hexec, whenStarted_started f (s := withRun r s) hr, hf]

/-! ### The table -/

/-- Settles O11: row by row; a word that encodes no instruction decodes to none, whatever the run state. -/
theorem runStateTable : Obligations.RunStateTable := by
  refine ⟨fun s hr => ⟨fun i hi => ?_, ⟨_, exec_start s, rfl⟩, execCapstop_idle⟩,
    fun s hr => ⟨?_, _, exec_stop_running hr, rfl⟩,
    fun s hr => ⟨exec_stop_stopped (by simp [hr]), _, exec_start s, rfl⟩, fun s r i hi => ?_,
    fun s q => execRds_eq q s, fun s w hw => ?_⟩
  · by_cases hstop : i = .stop
    · exact hstop ▸ exec_stop_stopped (by simp [hr])
    · have hwait : waitsForStart i = true := by revert i; decide
      exact exec_waitsForStart_uninit hwait hr
  · rw [exec_start, withRun_self hr]
  · rcases hi with hi | ⟨q, x, rfl⟩ | ⟨q, rfl⟩
    · rcases List.mem_pair.1 hi with rfl | rfl
      · exact nop_runBlind s r
      · exact capstop_runBlind s r
    · exact wrp_runBlind q x s r
    · exact rdp_runBlind q s r
  · exact execWord_illegal (fun j hj => hw j (encode_of_decode hj).2 (encode_of_decode hj).1) s

/-- Settles O12: an instruction either looks at the run state once, to see that the engine was started, or not at all;
START, STOP and `RDS STATUS` are set apart. -/
theorem suspendedLikeRunning : Obligations.SuspendedLikeRunning := by
  refine ⟨fun s i hr hstart hstop hstatus => ?_, fun s src hr => ?_⟩
  · have hs : s.run ≠ .uninit := by simp [hr]
    cases i with
    | start => exact absurd rfl hstart
    | stop => exact absurd rfl hstop
    | nop => exact nop_runBlind s .suspended
    | rdp q => exact rdp_runBlind q s .suspended
    | wrp q x => exact wrp_runBlind q x s .suspended
    | rds q => exact rds_runBlind (fun hq => hstatus (hq ▸ rfl)) s .suspended
    | capstop => exact capstop_runBlind s .suspended
    | apply | attack v | release v | capstart => exact exec_waitsForStart_started rfl hs (by decide)
  · exact ⟨_, tickEvent_stopped Config.build src (by simp [hr]), rfl⟩

end Sys2Proof.Proofs
end

section
/-!
Steps and events (40_commands.md R100, R101; 20_memory.md R70): which agent moves, and with which word.
-/

open Sys2Proof Sys2Proof.Machine Sys2Proof.Claims

namespace Sys2Proof.Proofs

theorem step_command {s : State} {w : Word} {ws : List Word} {es : List HostEvent} (hq : s.cq = w :: ws)
    (hp : s.pending = .command :: es) : step s = execWord w { s with cq := ws, pending := es } :=
  (step_cons hp).trans (controlStep_cons (s := { s with pending := es }) hq)

theorem step_without_event {s : State} {w : Word} {ws : List Word} (hq : s.cq = w :: ws) (hp : s.pending = []) :
    step s = execWord w { s with cq := ws } :=
  (step_nil hp).trans (controlStep_cons hq)

/-- A table word is decoded as the word its transport delivers (20_memory.md R66). -/
theorem decodeTableWord_eq (nbits w : Nat) :
    decodeTableWord nbits w = (decode (BitVec.ofNat 32 (w % 2 ^ nbits))).toOption := by
  have hbytes := decodeBytes_wordBytes (BitVec.ofNat 32 (w % 2 ^ nbits)) []
  rw [List.append_nil] at hbytes
  rw [decodeTableWord, hbytes]
  cases decode (BitVec.ofNat 32 (w % 2 ^ nbits)) <;> rfl

theorem decode_of_decodeTableWord {nbits w : Nat} {i : Instr} (h : decodeTableWord nbits w = some i) :
    decode (BitVec.ofNat 32 (w % 2 ^ nbits)) = .ok i := by
  rw [decodeTableWord_eq] at h
  cases hd : decode (BitVec.ofNat 32 (w % 2 ^ nbits)) with
  | ok j => rw [hd] at h; exact congrArg _ (Option.some.inj h)
  | error x => rw [hd] at h; exact nomatch h

/-- Settles O40: the control agent's turn takes the head word, and a word placed by `withFetchWord` leaves the state it
was placed in. -/
theorem stepRunsDecoded : Obligations.StepRunsDecoded := by
  refine ⟨fun s w ws es i hq hp hd => ?_, fun s w ws i hq hp hd => ?_, fun s w ws es x hq hp hd => ?_,
    fun s w ws x hq hp hd => ?_, fun s nbits w i h => ?_⟩
  · exact (step_command hq hp).trans (execWord_ok hd _)
  · exact (step_without_event hq hp).trans (execWord_ok hd _)
  · exact (step_command hq hp).trans (execWord_error hd _)
  · exact (step_without_event hq hp).trans (execWord_error hd _)
  · exact (step_command (s := s.withFetchWord nbits w) rfl rfl).trans (execWord_ok (decode_of_decodeTableWord h) s)

/-- Settles O41: the next event is taken off the trace and runs on the state without it. -/
theorem hostEvents : Obligations.HostEvents := fun _ _ =>
  ⟨fun _ => step_cons, fun _ _ hp hr => (step_cons hp).trans (responseRule.2 _ _ _ hr), fun _ => step_cons, step_cons,
    fun hp hq => (step_nil hp).trans (controlStep_nil hq)⟩

end Sys2Proof.Proofs
end

section
/-!
The tick step seen from outside (40_commands.md R110 to R112): when a pulse acts, and what a tick writes.
-/

open Sys2Proof Sys2Proof.Machine Sys2Proof.Claims

namespace Sys2Proof.Proofs

/-- Settles O42: a tick step is one of two state updates while RUNNING, and both count the tick and show a frame. -/
theorem tickEnabling : Obligations.TickEnabling := by
  refine fun s src => ⟨fun hr => ⟨_, tickEvent_stopped Config.build src hr, rfl, rfl, rfl⟩, fun hr => ?_, rfl⟩
  cases hx : s.fx.fxv with
  | false => rw [tickEvent_silent Config.build src hr hx]; exact ⟨rfl, rfl⟩
  | true => rw [tickEvent_active Config.build src hr hx]; exact ⟨rfl, rfl⟩

theorem recordFrame_eq (cap : CapState) (buf : List Frame) (out : Frame) :
    recordFrame cap buf out = if cap = .recording then buf ++ [out] else buf := by
  cases cap <;> rfl

theorem capturePort_eq (cap : CapState) (out : Frame) :
    capturePort cap out = if cap = .recording then some out else none := by
  cases cap <;> rfl

/-- Settles O43: the silent tick writes the ports, the count and a recording in progress. -/
theorem tickSilent : Obligations.TickSilent := fun s src hr hx =>
  ⟨_, by rw [tickEvent_silent Config.build src hr hx, ← recordFrame_eq]; rfl, rfl, rfl, capturePort_eq s.cap _⟩

theorem frac_eq_fract (x : Rat) : frac x = Int.fract x := rfl

/-- One advance is the closed form at one tick (41_voice_manager.md R130). -/
theorem afterTicks_advance (s : Smoother) : AfterTicks 1 s (advance s) := by
  refine ⟨fun hv => ?_, advance_of_not_valid⟩
  have hcur : s.cur + s.alpha * (s.tgt - s.cur) = settled s 1 := by
    rw [settled]
    ring
  rw [advance, if_pos hv, hcur]

theorem advanceVoice_present_eq (cfg : Config) {V : Voice} (h : V.present = true) :
    advanceVoice cfg V = { V with
      lfoPh := Int.fract (V.lfoPh + V.lforate.cur / cfg.fs)
      freq := advance V.freq, det := advance V.det, rate := advance V.rate, lvl := advance V.lvl
      pan := advance V.pan, lforate := advance V.lforate } := by
  rw [← frac_eq_fract]
  exact if_pos h

/-- Settles O49: the tick writes the fields listed; each voice that exists and the effects record are written in their
phases and smoothers alone, and each smoother by one advance. -/
theorem tickControl : Obligations.TickControl := by
  intro s src hr hx
  refine ⟨_, _, _, _, _, _, _, _, tickEvent_active Config.build src hr hx, fun v => ?_, ?_⟩
  · exact ⟨_, _, _, _, _, _, fun hp => (Triple.get_each _ v).trans (advanceVoice_absent _ hp), fun hp =>
      ⟨(Triple.get_each _ v).trans (advanceVoice_present_eq _ hp), afterTicks_advance _, afterTicks_advance _,
        afterTicks_advance _, afterTicks_advance _, afterTicks_advance _, afterTicks_advance _⟩⟩
  · exact ⟨_, _, _, _, _, _, _, rfl, afterTicks_advance _, afterTicks_advance _, afterTicks_advance _,
      afterTicks_advance _, afterTicks_advance _, afterTicks_advance _, afterTicks_advance _⟩

end Sys2Proof.Proofs
end

section
/-!
APPLY on the voices (41_voice_manager.md R120 to R131). One started APPLY is `reconcile`, and each voice it leaves is
`applyVoice` of the voice it found, so a statement about APPLY is one about a single voice that is created, replaced
or kept.
-/

open Sys2Proof Sys2Proof.Machine Sys2Proof.Claims

namespace Sys2Proof.Proofs

/-! ### Staged values and retargets in the statements' words -/

theorem clamp_eq_within {lo hi : Rat} (h : lo ≤ hi) (x : Rat) : clamp x lo hi = within x lo hi := by
  unfold clamp within
  split_ifs with hlo hhi
  · rw [max_eq_right hlo.le, min_eq_left h]
  · rw [max_eq_left (not_lt.1 hlo), min_eq_right hhi.le]
  · rw [max_eq_left (not_lt.1 hlo), min_eq_left (not_lt.1 hhi)]

theorem enabledFlag_eq_decide (p : VoicePatch) : enabledFlag p = decide (p.enabled = 1) :=
  beq_eq_decide _ _

theorem enabledFlag_eq_true_iff (p : VoicePatch) : enabledFlag p = true ↔ p.enabled = 1 := beq_iff_eq

theorem panTarget_eq (p : VoicePatch) : clamp (smilli p.pan) (-1) 1 = within (p.pan.toInt / 1000) (-1) 1 :=
  clamp_eq_within (by norm_num) _

theorem levelTarget_eq (p : VoicePatch) :
    levelTarget p (enabledFlag p) = if p.enabled = 1 then within (p.gain.toNat / 1000) 0 1 else 0 := by
  rw [levelTarget, clamp_eq_within zero_le_one]
  exact if_congr (enabledFlag_eq_true_iff p) rfl rfl

theorem levelSpeed_eq (cfg : Config) (p : VoicePatch) (en : Bool) :
    (if enabledFlag p ≠ en then cfg.alphaFast else cfg.alphaSmooth) =
      if decide (p.enabled = 1) = en then cfg.alphaSmooth else cfg.alphaFast := by
  rw [enabledFlag_eq_decide, ite_not]

/-- Noise is the one waveform of its category, and code 4 is its only code (10_state.md R23). -/
theorem catOf_waveformOf_eq_noise_iff (r : Half) : catOf (waveformOf r) = .noise ↔ r = 4 := by
  have hcode : r = 4 ↔ r.toNat = 4 := BitVec.toNat_eq
  rw [hcode, waveformOf]
  split <;> simp_all [catOf]

/-- There are two categories. -/
theorem category_ext {c d : Category} (h : c = .noise ↔ d = .noise) : c = d := by
  cases d with
  | noise => exact h.2 rfl
  | tonal =>
    cases c with
    | tonal => rfl
    | noise => exact nomatch h.1 rfl

/-- `retarget` has the three branches of 41_voice_manager.md R129. -/
theorem retargeted_retarget (s : Smoother) (x a : Rat) : Retargeted s (retarget s x a) x a := by
  refine ⟨retarget_of_not_valid x a, fun hv hx => ?_, fun hv hx => retarget_same a hv hx.symm⟩
  rw [retarget, if_neg (by simp [hv]), if_pos hx, hv]

/-! ### One started APPLY -/

theorem exec_apply_next {s : State} (h : s.run ≠ .uninit) : exec .apply s = .next (reconcile Config.build s) :=
  congrArg Host.Outcome.next (whenStarted_started _ h)

/-- What APPLY writes (41_voice_manager.md R120). -/
theorem reconcile_frame (cfg : Config) (s : State) : ∃ fx ir lut, fx.fxv = true ∧
    reconcile cfg s = okAnswer 0 { s with voices := applyVoices cfg s, fx := fx, ir := ir, lut := lut } := by
  rcases reconcile_cases cfg s with ⟨-, e⟩ | ⟨-, e⟩
  · exact ⟨_, s.ir, _, rfl, e.trans (respond_ok 0 _)⟩
  · exact ⟨_, _, _, rfl, e.trans (respond_ok 0 _)⟩

/-- A voice after APPLY is made of its staged group and of itself alone (41_voice_manager.md R121). -/
theorem voice_of_exec_apply {s t : State} (hr : s.run ≠ .uninit) (h : exec .apply s = .next t) (v : VoiceId) :
    t.voices.get v = applyVoice Config.build (s.patch.voices.get v) (s.voices.get v) := by
  rw [exec_apply_started h hr, reconcile_voice]

/-! ### One voice -/

section

variable (cfg : Config) {p : VoicePatch} {V : Voice}

theorem applyVoice_pan (p : VoicePatch) (V : Voice) :
    (applyVoice cfg p V).pan =
      retarget (settledVoice p V).pan (within (p.pan.toInt / 1000) (-1) 1) cfg.alphaSmooth := by
  obtain ⟨-, -, -, -, -, -, -, -, hpan, -⟩ := applyVoice_fields cfg p V
  rw [hpan, panTarget_eq]

theorem applyVoice_lvl (p : VoicePatch) (V : Voice) :
    (applyVoice cfg p V).lvl =
      retarget (settledVoice p V).lvl (if p.enabled = 1 then within (p.gain.toNat / 1000) 0 1 else 0)
        (if decide (p.enabled = 1) = (settledVoice p V).en then cfg.alphaSmooth else cfg.alphaFast) := by
  obtain ⟨-, -, -, -, -, -, -, -, -, hlvl, -⟩ := applyVoice_fields cfg p V
  rw [hlvl, levelTarget_eq, levelSpeed_eq]

theorem applyVoice_source (p : VoicePatch) (V : Voice) :
    (applyVoice cfg p V).wf = waveformOf p.waveform ∧ (applyVoice cfg p V).cat = catOf (waveformOf p.waveform) := by
  obtain ⟨-, hcat, hwf, -⟩ := applyVoice_fields cfg p V
  exact ⟨hwf, hcat⟩

theorem applyVoice_latches (p : VoicePatch) (V : Voice) :
    (applyVoice cfg p V).adsr = ⟨p.envA, p.envD, p.envS, p.envR⟩ ∧ (applyVoice cfg p V).en = enabledFlag p := by
  obtain ⟨-, -, -, hen, -, hadsr, -⟩ := applyVoice_fields cfg p V
  exact ⟨hadsr, hen⟩

/-- What a voice that existed keeps through creation, replacement and targets (41_voice_manager.md R123, R131). -/
theorem applyVoice_kept (h : V.present = true) :
    (applyVoice cfg p V).env = V.env ∧ (applyVoice cfg p V).lfoPh = V.lfoPh := by
  obtain ⟨henv, hph, -⟩ := settledVoice_kept p V h
  obtain ⟨-, -, -, -, -, -, hWenv, hWph, -⟩ := applyVoice_fields cfg p V
  exact ⟨hWenv.trans henv, hWph.trans hph⟩

/-- What creation leaves, up to the pitch (41_voice_manager.md R122). -/
theorem settledVoice_created (h : V.present = false) :
    (settledVoice p V).epoch = 1 ∧ (settledVoice p V).env = .hold 1 ∧ (settledVoice p V).lfoPh = 0 ∧
      (settledVoice p V).en = enabledFlag p ∧ (settledVoice p V).pan.valid = false ∧
      (settledVoice p V).lvl.valid = false ∧ (settledVoice p V).lforate.valid = false := by
  rw [settledVoice_absent p V h]
  exact ⟨rfl, rfl, rfl, rfl, rfl, rfl, rfl⟩

/-- A created voice has its other smoothers loaded at their targets; creation has set the flag, so the level is not
fast (41_voice_manager.md R128, 42_modulation_router.md R145). -/
theorem applyVoice_created_smoothers (h : V.present = false) :
    (applyVoice cfg p V).pan = loaded (within (p.pan.toInt / 1000) (-1) 1) cfg.alphaSmooth ∧
    (applyVoice cfg p V).lvl =
      loaded (if p.enabled = 1 then within (p.gain.toNat / 1000) 0 1 else 0) cfg.alphaSmooth ∧
    (applyVoice cfg p V).lforate = loaded (max (p.lfoRate.toNat / 1000) (1 / 1000)) cfg.alphaSmooth := by
  obtain ⟨-, -, -, hen, hpan, hlvl, hrate⟩ := settledVoice_created (p := p) h
  rw [applyVoice_pan, applyVoice_lvl, (applyVoice_lforate cfg p V).1, hen, if_pos (enabledFlag_eq_decide p).symm]
  exact ⟨retarget_of_not_valid _ _ hpan, retarget_of_not_valid _ _ hlvl, retarget_of_not_valid _ _ hrate⟩

/-- The pitch smoothers of the voice's category stand at the staged targets and the others are not loaded
(41_voice_manager.md R125 to R127). -/
def PitchLoaded (cfg : Config) (p : VoicePatch) (W : Voice) : Prop :=
  (W.cat = .tonal → W.freq = loaded (6541 / 100 * 2 ^ p.octave.toInt) cfg.alphaSmooth ∧
    W.det = loaded p.detune.toInt cfg.alphaSmooth ∧ W.rate.valid = false) ∧
  (W.cat = .noise → W.rate = loaded (2 ^ p.octave.toInt * cfg.exp2Cents p.detune.toInt) cfg.alphaSmooth ∧
    W.freq.valid = false ∧ W.det.valid = false)

/-- A new source, made by creation or by replacement, starts with no pitch smoother loaded. -/
theorem settledVoice_pitch_invalid (h : V.present = false ∨ V.cat ≠ catOf (waveformOf p.waveform)) :
    (settledVoice p V).freq.valid = false ∧ (settledVoice p V).det.valid = false ∧
      (settledVoice p V).rate.valid = false := by
  rcases settleSource_cases V (waveformOf p.waveform) (enabledFlag p) with ⟨-, e⟩ | ⟨-, -, e⟩ | ⟨hp, hc, -⟩
  · rw [settledVoice, e]; exact ⟨rfl, rfl, rfl⟩
  · rw [settledVoice, e]; exact ⟨rfl, rfl, rfl⟩
  · rcases h with h | h
    · exact nomatch hp.symm.trans h
    · exact absurd hc h

theorem applyVoice_pitchLoaded (h : V.present = false ∨ V.cat ≠ catOf (waveformOf p.waveform)) :
    PitchLoaded cfg p (applyVoice cfg p V) := by
  obtain ⟨hf, hd, hr⟩ := settledVoice_pitch_invalid h
  obtain ⟨-, hcat, -, -, -, -, -, -, -, -, htonal, hnoise⟩ := applyVoice_fields cfg p V
  refine ⟨fun hc => ?_, fun hc => ?_⟩
  · obtain ⟨hWf, hWd, hWr⟩ := htonal (hcat.symm.trans hc)
    exact ⟨hWf.trans (retarget_of_not_valid _ _ hf), hWd.trans (retarget_of_not_valid _ _ hd), hWr ▸ hr⟩
  · obtain ⟨hWr, hWf, hWd⟩ := hnoise (hcat.symm.trans hc)
    exact ⟨hWr.trans (retarget_of_not_valid _ _ hr), hWf ▸ hf, hWd ▸ hd⟩

end

/-! ### The statements -/

/-- Settles O13: the frame of `reconcile`, and the latches of each voice. -/
theorem applyRule : Obligations.ApplyRule := by
  refine fun s => ⟨exec_waitsForStart_uninit rfl, fun hr => ?_, execWord_ok (by decide) s,
    fun _ hlow => execWord_plainRow_illegal (i := .apply) (by decide) hlow s⟩
  obtain ⟨fx, ir, lut, hfxv, e⟩ := reconcile_frame Config.build s
  refine ⟨_, fx, ir, lut, (exec_apply_next hr).trans (congrArg _ e), hfxv, fun v => ?_⟩
  rw [applyVoices, Triple.get_each]
  obtain ⟨hadsr, hen⟩ := applyVoice_latches Config.build (s.patch.voices.get v) (s.voices.get v)
  exact ⟨applyVoice_present _ _ _, hadsr, hen ▸ enabledFlag_eq_true_iff _, fun hp => (applyVoice_kept _ hp).1⟩

/-- Settles O14: creation leaves no smoother loaded, so each is loaded at its target. -/
theorem applyCreatesVoice : Obligations.ApplyCreatesVoice := by
  intro s t v hr h hp p V a
  have hV : V = applyVoice Config.build p (s.voices.get v) := voice_of_exec_apply hr h v
  obtain ⟨hepoch, henv, hph, -⟩ := settledVoice_created (p := p) hp
  obtain ⟨-, hcat, hwf, -, hVepoch, -, hVenv, hVph, -⟩ := applyVoice_fields Config.build p (s.voices.get v)
  obtain ⟨hpan, hlvl, hrate⟩ := applyVoice_created_smoothers Config.build (p := p) hp
  obtain ⟨htonal, hnoise⟩ := applyVoice_pitchLoaded Config.build (p := p) (.inl hp)
  have hVenv := hVenv.trans henv
  rw [hV]
  exact ⟨applyVoice_present _ _ _, hVepoch.trans hepoch, hwf, hcat, hVenv, fun n => hVenv ▸ ⟨rfl, rfl⟩,
    hVph.trans hph, htonal, hnoise, hlvl, hpan, hrate⟩

/-- Settles O15: replacement leaves no pitch smoother loaded; the other three smoothers are loaded or not as before,
and a loaded one is never stepped. -/
theorem applyReplacesSource : Obligations.ApplyReplacesSource := by
  intro s t v hr h hp hne p V W a
  have hW : W = applyVoice Config.build p V := voice_of_exec_apply hr h v
  obtain ⟨-, hcat, hwf, -, hepoch, -⟩ := applyVoice_fields Config.build p V
  obtain ⟨henv, hph⟩ := applyVoice_kept Config.build (p := p) hp
  obtain ⟨-, -, -, hVpan, hVlvl, hVrate⟩ := settledVoice_kept p V hp
  have hpan := hVpan ▸ applyVoice_pan Config.build p V
  have hlvl := hVlvl ▸ applyVoice_lvl Config.build p V
  have hrate := hVrate ▸ (applyVoice_lforate Config.build p V).1
  obtain ⟨htonal, hnoise⟩ := applyVoice_pitchLoaded Config.build (p := p) (.inr hne)
  rw [settledVoice_replace p V hp hne] at hepoch
  rw [hW, hlvl, hpan, hrate]
  exact ⟨applyVoice_present _ _ _, hcat, hwf, hepoch, henv, hph, htonal, hnoise, retarget_cur _ _,
    retarget_cur _ _, retarget_cur _ _⟩

/-- Settles O16: waveform and category follow the staged code; where the category is the old one, the source stays. -/
theorem applyKeepsIdentity : Obligations.ApplyKeepsIdentity := by
  intro s t v hr h w
  have hw : (s.patch.voices.get v).waveform = w := rfl
  rw [voice_of_exec_apply hr h v]
  obtain ⟨hwf, hcat⟩ := applyVoice_source Config.build (s.patch.voices.get v) (s.voices.get v)
  rw [hw] at hwf hcat
  have hcode {x : Half} (hx : w = x) :
      (applyVoice Config.build (s.patch.voices.get v) (s.voices.get v)).wf = waveformOf x ∧
        (applyVoice Config.build (s.patch.voices.get v) (s.voices.get v)).cat = catOf (waveformOf x) :=
    hx ▸ ⟨hwf, hcat⟩
  refine ⟨⟨hwf, hcat⟩, hcode, hcode, hcode, hcode, hcode, fun hp hiff => ?_⟩
  have hkeep : (s.voices.get v).cat = catOf (waveformOf w) := by
    rw [← catOf_waveformOf_eq_noise_iff] at hiff
    exact category_ext hiff
  obtain ⟨-, -, -, -, hepoch, -⟩ := applyVoice_fields Config.build (s.patch.voices.get v) (s.voices.get v)
  obtain ⟨henv, hph⟩ := applyVoice_kept Config.build (p := s.patch.voices.get v) hp
  rw [settledVoice_keep _ _ hp hkeep] at hepoch
  exact ⟨hepoch, hcat.trans hkeep.symm, henv, hph⟩

/-- Settles O17: a source that stays keeps its smoothers, and APPLY retargets those of its category. -/
theorem applyPitchTargets : Obligations.ApplyPitchTargets := by
  intro s t v hr h hp hcat p V W a
  have hW : W = applyVoice Config.build p V := voice_of_exec_apply hr h v
  obtain ⟨-, -, -, -, -, -, -, -, -, -, htonal, hnoise⟩ := applyVoice_fields Config.build p V
  rw [settledVoice_keep p V hp hcat] at htonal hnoise
  rw [hW]
  refine ⟨fun hc => ?_, fun hc => ?_⟩
  · obtain ⟨hf, hd, hrate⟩ := htonal (hcat.symm.trans hc)
    rw [hf, hd]
    exact ⟨retargeted_retarget _ _ _, retargeted_retarget _ _ _, hrate⟩
  · obtain ⟨hrate, hf, hd⟩ := hnoise (hcat.symm.trans hc)
    rw [hrate]
    exact ⟨retargeted_retarget _ _ _, hf, hd⟩

/-- Settles O18: a voice that existed comes to its retargets with the flag and both smoothers it had; a created one
is loaded. -/
theorem applyPanAndLevel : Obligations.ApplyPanAndLevel := by
  intro s t v hr h p V W target
  have hW : W = applyVoice Config.build p V := voice_of_exec_apply hr h v
  rw [hW]
  refine ⟨fun hp => ?_, fun hp => ?_⟩
  · obtain ⟨-, -, hen, hpan, hlvl, -⟩ := settledVoice_kept p V hp
    rw [applyVoice_pan, applyVoice_lvl, hen, hpan, hlvl]
    exact ⟨retargeted_retarget _ _ _, retargeted_retarget _ _ _⟩
  · obtain ⟨hpan, hlvl, -⟩ := applyVoice_created_smoothers Config.build (p := p) hp
    exact ⟨hpan, hlvl⟩

end Sys2Proof.Proofs
end

section
/-!
The voices in a tick: what the source ports show and what is summed (41_voice_manager.md R133 to R137), and where the
smoothers and settled phases stand after many ticks (R130; 42_modulation_router.md R146).
-/

open Sys2Proof Sys2Proof.Machine Sys2Proof.Claims

namespace Sys2Proof.Proofs

/-! ### Source controls -/

theorem srcControl_absent (cfg : Config) {V : Voice} (h : V.present = false) : srcControl cfg V = none := if_pos h

theorem srcControl_tonal (cfg : Config) {V : Voice} (hp : V.present = true) (hc : V.cat = .tonal) :
    srcControl cfg V = some
      { cat := .tonal
        wf := waveformCode V.wf
        freq := V.freq.cur * cfg.exp2Cents (V.det.cur + modTerm cfg V .pitch)
        rate := 0
        epoch := V.epoch } := by
  rw [srcControl, if_neg (by simp [hp]), hc]

theorem srcControl_noise (cfg : Config) {V : Voice} (hp : V.present = true) (hc : V.cat = .noise) :
    srcControl cfg V = some
      { cat := .noise
        wf := 4
        freq := 0
        rate := V.rate.cur * cfg.exp2Cents (modTerm cfg V .pitch)
        epoch := V.epoch } := by
  rw [srcControl, if_neg (by simp [hp]), hc]

theorem tickEvent_src (cfg : Config) (src : Triple Rat) {s : State} (hr : s.run = .running) (hx : s.fx.fxv = true)
    (v : VoiceId) : (tickEvent cfg src s).ports.src.get v = srcControl cfg (s.voices.get v) := by
  rw [tickEvent_active cfg src hr hx, tickActive_ports, Triple.get_each]

/-! ### The sum of the voices -/

theorem modTerm_build (V : Voice) (r : Route) : modTerm Config.build V r = modulation V r := rfl

theorem voiceAdds_eq (V : Voice) (t : Nat) (x : Rat) (c : Chan) :
    voiceAdds V t x c = if V.present then voiceSample Config.build t V x c else 0 := by
  rw [voiceAdds, voiceSample, voiceMono, voiceLevel, voicePan, clamp_eq_within zero_le_one,
    clamp_eq_within (by norm_num), modTerm_build, modTerm_build]

/-- Settles O44: the ports show the source controls of the voices the tick found, and each summand of `fin` is what one
of them adds. -/
theorem tickVoices : Obligations.TickVoices := by
  intro s src hr hx
  refine ⟨fun v => ?_, fun c => ?_⟩
  · rw [tickEvent_src Config.build src hr hx v]
    exact ⟨srcControl_absent _, srcControl_tonal _, srcControl_noise _⟩
  · rw [voiceAdds_eq, voiceAdds_eq, voiceAdds_eq]
    rfl

/-! ### Ticks that move the control state on -/

theorem ticks_cons (src : Triple Rat) (srcs : List (Triple Rat)) (s : State) :
    ticks (src :: srcs) s = ticks srcs (tickEvent Config.build src s) := rfl

/-- RUNNING, and an APPLY has acted: a tick is the full tick step (40_commands.md R111, R112). -/
structure Sounding (s : State) : Prop where
  run : s.run = .running
  fxv : s.fx.fxv = true

section

variable {s : State} (h : Sounding s) (cfg : Config) (src : Triple Rat)

include h

theorem Sounding.tickEvent_eq : tickEvent cfg src s = tickActive cfg src s := tickEvent_active cfg src h.run h.fxv

theorem Sounding.tickEvent : Sounding (tickEvent cfg src s) := by
  rw [h.tickEvent_eq]
  exact ⟨h.run, h.fxv⟩

theorem Sounding.fx_tickEvent : (Machine.tickEvent cfg src s).fx = advanceEffects s.fx := by
  rw [h.tickEvent_eq, tickActive_fx]

theorem Sounding.voice_tickEvent (v : VoiceId) :
    (Machine.tickEvent cfg src s).voices.get v = advanceVoice cfg (s.voices.get v) := by
  rw [h.tickEvent_eq, tickActive_voices, Triple.get_each]

theorem Sounding.present_tickEvent {v : VoiceId} (hp : (s.voices.get v).present = true) :
    ((Machine.tickEvent cfg src s).voices.get v).present = true := by
  rw [h.voice_tickEvent, advanceVoice_present, hp]

end

/-! ### Smoothers after any number of ticks -/

theorem afterTicks_zero (s : Smoother) : AfterTicks 0 s s := by
  refine ⟨fun _ => ?_, fun _ => rfl⟩
  rw [settled, pow_zero, mul_one, add_sub_cancel]

/-- One advance takes the factor `1 - alpha` off the distance to the target. -/
theorem settled_advance {s : Smoother} (h : s.valid = true) (n : Nat) : settled (advance s) n = settled s (n + 1) := by
  rw [settled, settled, advance_tgt, advance_alpha, advance_cur h]
  ring

theorem afterTicks_succ {n : Nat} {s u : Smoother} (h : AfterTicks n (advance s) u) : AfterTicks (n + 1) s u := by
  obtain ⟨hvalid, hinvalid⟩ := h
  refine ⟨fun hv => ?_, fun hv => ?_⟩
  · rw [hvalid ((advance_valid s).trans hv), settled_advance hv, advance, if_pos hv]
  · rw [hinvalid ((advance_valid s).trans hv), advance_of_not_valid hv]

/-- A smoother that every tick advances, as long as something holds that every tick keeps, follows the closed form of
41_voice_manager.md R130; by induction on the ticks. -/
theorem afterTicks_ticks {P : State → Prop} {f : State → Smoother}
    (hkeep : ∀ src s, P s → P (tickEvent Config.build src s))
    (hadvance : ∀ src s, P s → f (tickEvent Config.build src s) = advance (f s)) (srcs : List (Triple Rat)) {s : State}
    (h : P s) : AfterTicks srcs.length (f s) (f (ticks srcs s)) := by
  induction srcs generalizing s with
  | nil => exact afterTicks_zero (f s)
  | cons src srcs ih =>
    have hrest := ih (hkeep src s h)
    rw [hadvance src s h] at hrest
    exact afterTicks_succ hrest

theorem afterTicks_fx {f : Effects → Smoother} (hf : ∀ fx, f (advanceEffects fx) = advance (f fx))
    (srcs : List (Triple Rat)) {s : State} (h : Sounding s) :
    AfterTicks srcs.length (f s.fx) (f (ticks srcs s).fx) :=
  afterTicks_ticks (P := Sounding) (f := fun s => f s.fx) (fun src _ h => h.tickEvent _ src)
    (fun src _ h => (congrArg f (h.fx_tickEvent _ src)).trans (hf _)) srcs h

theorem afterTicks_voice {f : Voice → Smoother}
    (hf : ∀ V, V.present = true → f (advanceVoice Config.build V) = advance (f V)) (srcs : List (Triple Rat))
    {s : State} (h : Sounding s) {v : VoiceId} (hp : (s.voices.get v).present = true) :
    AfterTicks srcs.length (f (s.voices.get v)) (f ((ticks srcs s).voices.get v)) :=
  afterTicks_ticks (P := fun s => Sounding s ∧ (s.voices.get v).present = true) (f := fun s => f (s.voices.get v))
    (fun src _ ⟨h, hp⟩ => ⟨h.tickEvent _ src, h.present_tickEvent _ src hp⟩)
    (fun src _ ⟨h, hp⟩ => (congrArg f (h.voice_tickEvent _ src v)).trans (hf _ hp)) srcs ⟨h, hp⟩

/-! ### Phases after any number of ticks -/

theorem advance_of_settled {s : Smoother} (h : s.cur = s.tgt) : advance s = s := by
  have hcur : s.cur + s.alpha * (s.tgt - s.cur) = s.cur := by rw [h, sub_self, mul_zero, add_zero]
  rw [advance, hcur]
  exact ite_self s

theorem fract_fract_add (x y : Rat) : Int.fract (Int.fract x + y) = Int.fract (x + y) :=
  Int.fract_eq_fract.2 ⟨-⌊x⌋, by rw [Int.fract]; push_cast; ring⟩

/-- A tick moves the phase by the rate it finds, and a settled rate stays (42_modulation_router.md R146). -/
theorem phase_ticks (srcs : List (Triple Rat)) {s : State} (h : Sounding s) {v : VoiceId}
    (hp : (s.voices.get v).present = true) (hrate : (s.voices.get v).lforate.cur = (s.voices.get v).lforate.tgt)
    (hph : Int.fract (s.voices.get v).lfoPh = (s.voices.get v).lfoPh) :
    ((ticks srcs s).voices.get v).lfoPh =
      Int.fract ((s.voices.get v).lfoPh + srcs.length * ((s.voices.get v).lforate.cur / Config.build.fs)) := by
  induction srcs generalizing s with
  | nil => rw [List.length_nil, Nat.cast_zero, zero_mul, add_zero, hph]; rfl
  | cons src srcs ih =>
    have hvoice := (h.voice_tickEvent Config.build src v).trans (advanceVoice_present_eq _ hp)
    rw [advance_of_settled hrate] at hvoice
    have hrest := ih (h.tickEvent Config.build src) (h.present_tickEvent _ src hp) (by rw [hvoice]; exact hrate)
      (by rw [hvoice]; exact Int.fract_fract _)
    rw [ticks_cons, hrest, hvoice]
    dsimp only
    rw [fract_fract_add, List.length_cons]
    push_cast
    ring_nf

/-- Settles O50: the tick advances each smoother of the effects record and of every voice that exists. -/
theorem smootherClosedForm : Obligations.SmootherClosedForm := by
  intro s srcs hr hx n t
  have h : Sounding s := ⟨hr, hx⟩
  have hfx (f : Effects → Smoother) (hf : ∀ fx, f (advanceEffects fx) = advance (f fx)) :
      AfterTicks n (f s.fx) (f t.fx) := afterTicks_fx hf srcs h
  refine ⟨hfx Effects.fc fun _ => rfl, hfx Effects.fq fun _ => rfl, hfx Effects.dtime fun _ => rfl,
    hfx Effects.dfb fun _ => rfl, hfx Effects.dmix fun _ => rfl, hfx Effects.rmix fun _ => rfl,
    hfx Effects.mgain fun _ => rfl, fun v hp => ?_⟩
  have hvoice (f : Voice → Smoother)
      (hf : ∀ V, V.present = true → f (advanceVoice Config.build V) = advance (f V)) :
      AfterTicks n (f (s.voices.get v)) (f (t.voices.get v)) := afterTicks_voice hf srcs h hp
  exact ⟨hvoice Voice.freq fun _ hp => congrArg Voice.freq (advanceVoice_present_eq _ hp),
    hvoice Voice.det fun _ hp => congrArg Voice.det (advanceVoice_present_eq _ hp),
    hvoice Voice.rate fun _ hp => congrArg Voice.rate (advanceVoice_present_eq _ hp),
    hvoice Voice.lvl fun _ hp => congrArg Voice.lvl (advanceVoice_present_eq _ hp),
    hvoice Voice.pan fun _ hp => congrArg Voice.pan (advanceVoice_present_eq _ hp),
    hvoice Voice.lforate fun _ hp => congrArg Voice.lforate (advanceVoice_present_eq _ hp),
    phase_ticks srcs h hp⟩

end Sys2Proof.Proofs
end

section
/-!
A second APPLY finds nothing to do (41_voice_manager.md R132). An APPLY leaves every record as its staged registers want
it: the latches stand, and each loaded smoother aims at its target. Ticks keep that, since they move a smoother towards
its target and a phase only, and an APPLY on such a state changes nothing.
-/

open Sys2Proof Sys2Proof.Machine Sys2Proof.Claims

namespace Sys2Proof.Proofs

/-! ### Smoothers -/

/-- A loaded smoother with the target `x`. -/
structure Aims (s : Smoother) (x : Rat) : Prop where
  loaded : s.valid = true
  tgt : s.tgt = x

theorem aims_retarget (s : Smoother) (x a : Rat) : Aims (retarget s x a) x := ⟨retarget_valid s x a, retarget_tgt s x a⟩

theorem Aims.advance {s : Smoother} {x : Rat} (h : Aims s x) : Aims (advance s) x :=
  ⟨(advance_valid s).trans h.loaded, (advance_tgt s).trans h.tgt⟩

theorem Aims.retarget_eq {s : Smoother} {x : Rat} (h : Aims s x) (a : Rat) : retarget s x a = s :=
  retarget_same a h.loaded h.tgt

/-! ### One voice -/

section

variable {cfg : Config} {p : VoicePatch} {V : Voice}

/-- The route and the amount after APPLY are read off the staged group alone (42_modulation_router.md R140). -/
theorem applyVoice_route_congr (cfg : Config) (p : VoicePatch) (V W : Voice) :
    (applyVoice cfg p V).route = (applyVoice cfg p W).route ∧ (applyVoice cfg p V).amt = (applyVoice cfg p W).amt := by
  cases he : enabledFlag p with
  | false =>
    obtain ⟨hV, hVa⟩ := applyVoice_route_disabled cfg p V he
    obtain ⟨hW, hWa⟩ := applyVoice_route_disabled cfg p W he
    exact ⟨hV.trans hW.symm, hVa.trans hWa.symm⟩
  | true =>
    cases hd : lfoTargetOf? p.lfoTarget with
    | none =>
      obtain ⟨hV, hVa⟩ := applyVoice_route_unselected cfg p V hd
      obtain ⟨hW, hWa⟩ := applyVoice_route_unselected cfg p W hd
      exact ⟨hV.trans hW.symm, hVa.trans hWa.symm⟩
    | some d =>
      obtain ⟨hV, hVa⟩ := applyVoice_route_enabled cfg p V he hd
      obtain ⟨hW, hWa⟩ := applyVoice_route_enabled cfg p W he hd
      exact ⟨hV.trans hW.symm, hVa.trans hWa.symm⟩

/-- A voice as its staged group wants it. -/
structure VoiceReconciled (cfg : Config) (p : VoicePatch) (V : Voice) : Prop where
  present : V.present = true
  cat : V.cat = catOf (waveformOf p.waveform)
  wf : V.wf = waveformOf p.waveform
  en : V.en = enabledFlag p
  adsr : V.adsr = ⟨p.envA, p.envD, p.envS, p.envR⟩
  tonal : V.cat = .tonal → Aims V.freq (baseFreq p) ∧ Aims V.det (cents p.detune)
  noise : V.cat = .noise → Aims V.rate (noiseRate cfg p)
  pan : Aims V.pan (clamp (smilli p.pan) (-1) 1)
  lvl : Aims V.lvl (levelTarget p (enabledFlag p))
  lforate : Aims V.lforate (lfoRateTarget p.lfoRate)
  lfoWf : V.lfoWf = lfoWaveOf p.lfoWave
  routed : ∀ W, (applyVoice cfg p W).route = V.route ∧ (applyVoice cfg p W).amt = V.amt

theorem applyVoice_reconciled (cfg : Config) (p : VoicePatch) (V : Voice) :
    VoiceReconciled cfg p (applyVoice cfg p V) := by
  obtain ⟨-, hcat, hwf, hen, -, hadsr, -, -, hpan, hlvl, htonal, hnoise⟩ := applyVoice_fields cfg p V
  obtain ⟨hrate, hlfoWf⟩ := applyVoice_lforate cfg p V
  exact {
    present := applyVoice_present cfg p V
    cat := hcat
    wf := hwf
    en := hen
    adsr := hadsr
    tonal := fun hc => by
      obtain ⟨hf, hd, -⟩ := htonal (hcat.symm.trans hc)
      exact ⟨hf ▸ aims_retarget _ _ _, hd ▸ aims_retarget _ _ _⟩
    noise := fun hc => (hnoise (hcat.symm.trans hc)).1 ▸ aims_retarget _ _ _
    pan := hpan ▸ aims_retarget _ _ _
    lvl := hlvl ▸ aims_retarget _ _ _
    lforate := hrate ▸ aims_retarget _ _ _
    lfoWf := hlfoWf
    routed := fun W => applyVoice_route_congr cfg p W V }

/-- A tick moves the phase and the loaded smoothers of a voice, and none of their targets. -/
theorem VoiceReconciled.advance (h : VoiceReconciled cfg p V) : VoiceReconciled cfg p (advanceVoice cfg V) := by
  rw [advanceVoice_present_eq cfg h.present]
  exact { h with
    tonal := fun hc => ⟨(h.tonal hc).1.advance, (h.tonal hc).2.advance⟩, noise := fun hc => (h.noise hc).advance
    pan := h.pan.advance, lvl := h.lvl.advance, lforate := h.lforate.advance }

theorem VoiceReconciled.settledVoice_eq (h : VoiceReconciled cfg p V) : settledVoice p V = V := by
  rw [settledVoice_keep p V h.present h.cat, ← h.wf]

/-- The pitch smoothers of the category aim at their targets, and APPLY leaves the others alone. -/
theorem VoiceReconciled.applyVoice_pitch (h : VoiceReconciled cfg p V) :
    (applyVoice cfg p V).freq = V.freq ∧ (applyVoice cfg p V).det = V.det ∧ (applyVoice cfg p V).rate = V.rate := by
  obtain ⟨-, -, -, -, -, -, -, -, -, -, htonal, hnoise⟩ := applyVoice_fields cfg p V
  rw [h.settledVoice_eq] at htonal hnoise
  cases hc : V.cat with
  | tonal =>
    obtain ⟨hf, hd, hr⟩ := htonal (h.cat.symm.trans hc)
    obtain ⟨hfreq, hdet⟩ := h.tonal hc
    exact ⟨hf.trans (hfreq.retarget_eq _), hd.trans (hdet.retarget_eq _), hr⟩
  | noise =>
    obtain ⟨hr, hf, hd⟩ := hnoise (h.cat.symm.trans hc)
    exact ⟨hf, hd, hr.trans ((h.noise hc).retarget_eq _)⟩

/-- APPLY changes nothing of a voice that is as its staged group wants it. -/
theorem VoiceReconciled.applyVoice_eq (h : VoiceReconciled cfg p V) : applyVoice cfg p V = V := by
  obtain ⟨hpresent, hcat, hwf, hen, hepoch, hadsr, henv, hph, hpan, hlvl, -, -⟩ := applyVoice_fields cfg p V
  obtain ⟨hrate, hlfoWf⟩ := applyVoice_lforate cfg p V
  obtain ⟨hfreq, hdet, hnoiseRate⟩ := h.applyVoice_pitch
  obtain ⟨hroute, hamt⟩ := h.routed V
  rw [h.settledVoice_eq] at hpresent hepoch henv hph hpan hlvl hrate
  exact Voice.ext_fields hpresent (hcat.trans h.cat.symm) (hwf.trans h.wf.symm) (hen.trans h.en.symm) hepoch hfreq hdet
    hnoiseRate (hlvl.trans (h.lvl.retarget_eq _)) (hpan.trans (h.pan.retarget_eq _))
    (hrate.trans (h.lforate.retarget_eq _)) (hadsr.trans h.adsr.symm) henv (hlfoWf.trans h.lfoWf.symm) hph hroute hamt

end

/-! ### The effects record -/

section

variable {cfg : Config} {p : Patch} {fx : Effects}

/-- An effects record as the staged bank wants it. -/
structure EffectsReconciled (cfg : Config) (p : Patch) (fx : Effects) : Prop where
  fxv : fx.fxv = true
  ftype : fx.ftype = filterTypeOf p.ftype
  k : fx.k = driveIntensity cfg p.drive
  irMs : fx.irMs = some (decayMs cfg p.decay)
  fc : Aims fx.fc (clamp (hz p.cutoff) cutoffMin cutoffMax)
  fq : Aims fx.fq (clamp (milli p.resonance) 0 qMax)
  dtime : Aims fx.dtime (clamp (ms p.dtime) 0 cfg.delayMaxMs / 1000)
  dfb : Aims fx.dfb (clamp (milli p.feedback) 0 fbMax)
  dmix : Aims fx.dmix (clamp (milli p.dmix) 0 1)
  rmix : Aims fx.rmix (clamp (milli p.rmix) 0 1)
  mgain : Aims fx.mgain (milli p.mgain)

theorem applyEffects_reconciled (cfg : Config) (p : Patch) (fx : Effects) {irMs : Option Nat} {irLen syn : Nat}
    (h : irMs = some (decayMs cfg p.decay)) :
    EffectsReconciled cfg p { applyEffects cfg p fx with
      syn := syn, irLen := irLen, irMs := irMs, k := driveIntensity cfg p.drive, fxv := true } :=
  ⟨rfl, rfl, rfl, h, aims_retarget _ _ _, aims_retarget _ _ _, aims_retarget _ _ _, aims_retarget _ _ _,
    aims_retarget _ _ _, aims_retarget _ _ _, aims_retarget _ _ _⟩

theorem EffectsReconciled.advance (h : EffectsReconciled cfg p fx) : EffectsReconciled cfg p (advanceEffects fx) :=
  { h with
    fc := h.fc.advance, fq := h.fq.advance, dtime := h.dtime.advance, dfb := h.dfb.advance, dmix := h.dmix.advance
    rmix := h.rmix.advance, mgain := h.mgain.advance }

/-- What APPLY writes into an effects record that is as the staged bank wants it was there before. -/
theorem EffectsReconciled.applyEffects_eq (h : EffectsReconciled cfg p fx) :
    { applyEffects cfg p fx with k := driveIntensity cfg p.drive, fxv := true } = fx := by
  rw [applyEffects, h.fc.retarget_eq, h.fq.retarget_eq, h.dtime.retarget_eq, h.dfb.retarget_eq, h.dmix.retarget_eq,
    h.rmix.retarget_eq, h.mgain.retarget_eq, ← h.ftype, ← h.k, ← h.fxv]

end

/-! ### The whole state -/

section

variable {cfg : Config} {s : State}

/-- A state as its staged bank wants it. -/
structure Reconciled (cfg : Config) (s : State) : Prop where
  voice : ∀ v, VoiceReconciled cfg (s.patch.voices.get v) (s.voices.get v)
  fx : EffectsReconciled cfg s.patch s.fx
  lut : s.lut = driveTable cfg (driveIntensity cfg s.patch.drive)

theorem reconcile_reconciled (cfg : Config) (s : State) : Reconciled cfg (reconcile cfg s) := by
  have hvoice (v : VoiceId) : VoiceReconciled cfg (s.patch.voices.get v) ((applyVoices cfg s).get v) := by
    rw [applyVoices, Triple.get_each]
    exact applyVoice_reconciled cfg _ _
  rcases reconcile_cases cfg s with ⟨hm, e⟩ | ⟨-, e⟩
  · rw [e]
    exact ⟨hvoice, applyEffects_reconciled cfg s.patch s.fx hm, rfl⟩
  · rw [e]
    exact ⟨hvoice, applyEffects_reconciled cfg s.patch s.fx rfl, rfl⟩

theorem Reconciled.tickEvent (h : Reconciled cfg s) (src : Triple Rat) : Reconciled cfg (tickEvent cfg src s) := by
  by_cases hr : s.run = .running
  · rw [tickEvent_active cfg src hr h.fx.fxv]
    refine ⟨fun v => ?_, h.fx.advance, h.lut⟩
    rw [tickActive_voices, Triple.get_each]
    exact (h.voice v).advance
  · rw [tickEvent_stopped cfg src hr]
    exact ⟨h.voice, h.fx, h.lut⟩

theorem Reconciled.applyVoices_eq (h : Reconciled cfg s) : applyVoices cfg s = s.voices :=
  Triple.ext_get fun v => (Triple.get_each _ v).trans (h.voice v).applyVoice_eq

/-- An APPLY on such a state answers and changes nothing; no synthesis is due (45_curve_generators.md R205). -/
theorem Reconciled.reconcile_eq (h : Reconciled cfg s) : reconcile cfg s = okAnswer 0 s := by
  rcases reconcile_cases cfg s with ⟨-, e⟩ | ⟨hm, -⟩
  · rw [e, respond_ok, h.applyVoices_eq, ← h.lut, h.fx.applyEffects_eq]
  · exact absurd h.fx.irMs hm

end

/-! ### Ticks in between -/

theorem tickEvent_run (cfg : Config) (src : Triple Rat) (s : State) : (tickEvent cfg src s).run = s.run := by
  rcases tickEvent_cases cfg src s with h | ⟨-, h⟩
  · exact h.run
  · exact h.run

/-- What every tick keeps, any number of ticks keeps. -/
theorem ticks_induction {P : State → Prop} (hkeep : ∀ src s, P s → P (tickEvent Config.build src s))
    (srcs : List (Triple Rat)) {s : State} (h : P s) : P (ticks srcs s) := by
  induction srcs generalizing s with
  | nil => exact h
  | cons src srcs ih => exact ih (hkeep src s h)

/-- Settles O23: APPLY leaves a state as the staged bank wants it, ticks keep it so, and there APPLY only answers. -/
theorem applyIdempotent : Obligations.ApplyIdempotent := by
  intro s t srcs hr h
  obtain rfl := exec_apply_started h hr
  have hstart : (reconcile Config.build s).run ≠ .uninit := (reconcile_keepsControl _ s).run ▸ hr
  have hrun : (ticks srcs (reconcile Config.build s)).run ≠ .uninit :=
    ticks_induction (P := fun s => s.run ≠ .uninit) (fun src s hs => (tickEvent_run _ src s).symm ▸ hs) srcs hstart
  have hreconciled : Reconciled Config.build (ticks srcs (reconcile Config.build s)) :=
    ticks_induction (fun src _ h => h.tickEvent src) srcs (reconcile_reconciled Config.build s)
  rw [exec_apply_next hrun, hreconciled.reconcile_eq]

end Sys2Proof.Proofs
end

section
/-!
APPLY on the LFO of a voice (42_modulation_router.md R140 to R145). Its rate is one more smoother that creation leaves
unloaded; its route is the staged one, whatever the voice was routed to before.
-/

open Sys2Proof Sys2Proof.Machine Sys2Proof.Claims

namespace Sys2Proof.Proofs

section

variable (cfg : Config) {p : VoicePatch} {V : Voice}

/-- The LFO rate retargets from what creation or replacement left (42_modulation_router.md R145). -/
theorem applyVoice_lforate_retargeted (p : VoicePatch) (V : Voice) :
    Retargeted (settledVoice p V).lforate (applyVoice cfg p V).lforate
      (max (p.lfoRate.toNat / 1000) (1 / 1000)) cfg.alphaSmooth := by
  rw [(applyVoice_lforate cfg p V).1]
  exact retargeted_retarget _ _ _

/-- Neither creation nor replacement loads the LFO rate (41_voice_manager.md R122, R123). -/
theorem settledVoice_lforate_not_valid (h : V.present = false ∨ V.lforate.valid = false) :
    (settledVoice p V).lforate.valid = false := by
  cases hp : V.present with
  | false =>
    obtain ⟨-, -, -, -, -, -, hrate⟩ := settledVoice_created (p := p) hp
    exact hrate
  | true =>
    obtain ⟨-, -, -, -, -, hrate⟩ := settledVoice_kept p V hp
    rw [hrate]
    exact h.resolve_left (by simp [hp])

/-- Disconnect (42_modulation_router.md R141, R143). -/
theorem applyVoice_disconnected (V : Voice) (h : p.enabled ≠ 1) :
    (applyVoice cfg p V).route = .none ∧ (applyVoice cfg p V).amt = 0 :=
  applyVoice_route_disabled cfg p V (Bool.eq_false_iff.2 (mt (enabledFlag_eq_true_iff p).1 h))

/-- Connect, to the destination a code stands for (10_state.md R23, 42_modulation_router.md R142). -/
theorem applyVoice_connected (V : Voice) (h : p.enabled = 1) {c : Half} {d : LfoTarget}
    (hd : lfoTargetOf? c = some d) (hc : p.lfoTarget = c) :
    (applyVoice cfg p V).route = routeTo d ∧
      (applyVoice cfg p V).amt = within (p.lfoDepth.toNat / 1000) 0 1 * fullDepth cfg d := by
  rw [← clamp_eq_within zero_le_one]
  exact applyVoice_route_enabled cfg p V ((enabledFlag_eq_true_iff p).2 h) (hc ▸ hd)

/-- The LFO waveform a code stands for (10_state.md R23, 42_modulation_router.md R144). -/
theorem applyVoice_lfoWf_of_code (V : Voice) {c : Half} {w : LfoWave} (hw : lfoWaveOf c = w) (hc : p.lfoWave = c) :
    (applyVoice cfg p V).lfoWf = w :=
  (applyVoice_lforate cfg p V).2.trans (hc ▸ hw)

end

/-- Settles O19: each destination and each waveform is the one its code stands for; a voice that existed comes to the
retarget of the rate with the smoother it had. -/
theorem applyLfo : Obligations.ApplyLfo := by
  intro s t v hr h p V W depth
  have hW : W = applyVoice Config.build p V := voice_of_exec_apply hr h v
  have hrate := applyVoice_lforate_retargeted Config.build p V
  rw [hW]
  refine ⟨applyVoice_disconnected _ V, fun hen => ⟨?pitch, ?cutoff, ?amp, ?pan⟩, ?sine, ?triangle, ?sawtooth, ?square,
    fun hp _ => ?retargeted, fun hunset => ?loaded⟩
  case pitch => exact applyVoice_connected _ V hen (d := .pitch) rfl
  case cutoff => exact applyVoice_connected _ V hen (d := .cutoff) rfl
  case amp => exact applyVoice_connected _ V hen (d := .amp) rfl
  case pan => exact applyVoice_connected _ V hen (d := .pan) rfl
  case sine | triangle | sawtooth | square => exact applyVoice_lfoWf_of_code _ V rfl
  case retargeted =>
    obtain ⟨-, -, -, -, -, hkept⟩ := settledVoice_kept p V hp
    rwa [hkept] at hrate
  case loaded => exact hrate.1 (settledVoice_lforate_not_valid hunset)

end Sys2Proof.Proofs
end

section
/-!
The triggers ATTACK and RELEASE (43_envelope.md R155 to R161), as instructions and as words. A trigger that acts writes
one schedule; what is done with the schedule it replaces is one evaluation of it at the present tick.
-/

open Sys2Proof Sys2Proof.Machine Sys2Proof.Claims

namespace Sys2Proof.Proofs

/-! ### Words of the trigger rows -/

/-- The rows of the opcode table whose commands carry a voice (30_encoding.md R84, format V). -/
def triggerRows : List (BitVec 4 × (VoiceId → Instr)) := [(5, .attack), (6, .release)]

theorem decode_triggerRow {op : BitVec 4} {mk : VoiceId → Instr} (h : (op, mk) ∈ triggerRows) {w : Word}
    (hop : opField w = op) : decode w = decodeV mk w := by
  rw [decode, hop]
  fin_cases h <;> rfl

section

variable (op g : BitVec 4) (low : BitVec 24)

theorem opField_triggerWord : opField (op ++ g ++ low) = op :=
  (BitVec.extractLsb'_append_eq_of_le (by decide)).trans BitVec.extractLsb'_append_eq_left

theorem grpField_triggerWord : grpField (op ++ g ++ low) = g :=
  (BitVec.extractLsb'_append_eq_of_le (le_refl 24)).trans BitVec.extractLsb'_append_eq_right

/-- The must-be-zero bits of a trigger are those the decoder reads as index and immediate. -/
theorem operandFields_triggerWord : idxField (op ++ g ++ low) ++ immField (op ++ g ++ low) = low :=
  (BitVec.extractLsb'_append_extractLsb'_eq_extractLsb' (start₂ := 16) rfl).trans BitVec.extractLsb'_append_eq_right

end

/-- A trigger word with a voice above 2 or a must-be-zero bit set is illegal (30_encoding.md R87, R89). -/
theorem execWord_triggerRow_illegal {op : BitVec 4} {mk : VoiceId → Instr} (h : (op, mk) ∈ triggerRows)
    {g : BitVec 4} {low : BitVec 24} (hbad : 2 < g.toNat ∨ low ≠ 0) (s : State) :
    execWord (op ++ g ++ low) s = .next (illegalAnswer s) := by
  refine execWord_illegal (fun j hj => ?_) s
  rw [decode_triggerRow h (opField_triggerWord op g low)] at hj
  obtain ⟨v, -, hcode, hidx, himm⟩ := decodeV_eq_ok hj
  rw [grpField_triggerWord] at hcode
  rcases hbad with hvoice | hlow
  · have hle : v.code.toNat ≤ 2 := by cases v <;> decide
    exact absurd (hcode ▸ hle) (not_le.2 hvoice)
  · have hzero := operandFields_triggerWord op g low
    rw [hidx, himm] at hzero
    exact hlow hzero.symm

/-! ### What a trigger does -/

theorem exec_attack (v : VoiceId) (s : State) :
    exec (.attack v) s = .next (whenStarted (trigger (attackSchedule Config.build) v) s) := rfl

theorem exec_release (v : VoiceId) (s : State) :
    exec (.release v) s = .next (whenStarted (trigger (releaseSchedule Config.build) v) s) := rfl

section

variable {f : Adsr → Envelope → Nat → Envelope} {v : VoiceId} {s : State}

/-- A trigger that acts (43_envelope.md R157). -/
theorem whenStarted_trigger_acts (hr : s.run ≠ .uninit) (hp : (s.voices.get v).present = true) :
    whenStarted (trigger f v) s = okAnswer 0 { s with
      voices := s.voices.set v { s.voices.get v with
        env := f (s.voices.get v).adsr (s.voices.get v).env s.t } } := by
  rw [whenStarted_started _ hr, trigger_present hp, respond_ok]

/-- A trigger that is only answered (43_envelope.md R156). -/
theorem whenStarted_trigger_answers (h : s.run = .uninit ∨ (s.voices.get v).present = false) :
    whenStarted (trigger f v) s = okAnswer 0 s := by
  by_cases hr : s.run = .uninit
  · rw [whenStarted_uninit _ hr, respond_ok]
  · rw [whenStarted_started _ hr, trigger_absent (h.resolve_left hr), respond_ok]

/-- The schedules after a trigger: the new one of its voice where it acts, else those before. -/
theorem whenStarted_trigger_env (f : Adsr → Envelope → Nat → Envelope) (v w : VoiceId) (s : State) :
    ((whenStarted (trigger f v) s).voices.get w).env = f (s.voices.get w).adsr (s.voices.get w).env s.t ∨
      ((whenStarted (trigger f v) s).voices.get w).env = (s.voices.get w).env := by
  by_cases h : s.run = .uninit ∨ (s.voices.get v).present = false
  · exact .inr (by rw [whenStarted_trigger_answers h]; rfl)
  · obtain ⟨hr, hp⟩ := not_or.1 h
    rw [whenStarted_trigger_acts hr (Bool.eq_true_of_not_eq_false hp)]
    by_cases e : w = v
    · subst e
      exact .inl (congrArg Voice.env (Triple.get_set_same _ _ _))
    · exact .inr (congrArg Voice.env (Triple.get_set_ne _ _ e))

theorem whenStarted_trigger_t (f : Adsr → Envelope → Nat → Envelope) (v : VoiceId) (s : State) :
    (whenStarted (trigger f v) s).t = s.t :=
  (whenStarted_keepsControl (trigger_keepsControl f v s)).tick

end

/-! ### The schedules in the statements' words -/

theorem attackSchedule_eq (cfg : Config) (a : Adsr) (e : Envelope) (t : Nat) :
    attackSchedule cfg a e t =
      .ad t (envVal e t) (rampTicks cfg a.a) (rampTicks cfg a.d) (within (a.s.toNat / 1000) 0 1) :=
  congrArg (Envelope.ad _ _ _ _) (clamp_eq_within zero_le_one _)

theorem releaseSchedule_eq (cfg : Config) (a : Adsr) (e : Envelope) (t : Nat) :
    releaseSchedule cfg a e t = .rel t (envVal e t) (rampTicks cfg a.r) := rfl

/-! ### The statements -/

/-- Settles O24: an ATTACK acts or is only answered, and its row takes the words of the three voices alone. -/
theorem attackRule : Obligations.AttackRule := by
  refine fun s v => ⟨fun hr hp => ?_, fun h => ?_, execWord_ok (decode_trigger_words rfl).1 s,
    fun g low hbad => execWord_triggerRow_illegal (mk := .attack) (.head _) hbad s⟩
  · rw [exec_attack, whenStarted_trigger_acts hr hp, attackSchedule_eq]
    rfl
  · rw [exec_attack, whenStarted_trigger_answers h]

/-- Settles O25: a RELEASE acts or is only answered, and its row takes the words of the three voices alone. -/
theorem releaseRule : Obligations.ReleaseRule := by
  refine fun s v => ⟨fun hr hp => ?_, fun h => ?_, execWord_ok (decode_trigger_words rfl).2 s,
    fun g low hbad => execWord_triggerRow_illegal (mk := .release) (.tail _ (.head _)) hbad s⟩
  · rw [exec_release, whenStarted_trigger_acts hr hp, releaseSchedule_eq]
    rfl
  · rw [exec_release, whenStarted_trigger_answers h]

end Sys2Proof.Proofs
end

section
/-!
The envelope as a curve (43_envelope.md R162 to R166). Its stretches are given by the ticks `u` since the trigger; over
all of them it is one sum of two saturating ramps, each of which climbs from 0 to 1 by at most one part of its length a
tick, so that range, direction and step size are read off the ramps.
-/

open Sys2Proof Sys2Proof.Machine Sys2Proof.Claims

namespace Sys2Proof.Proofs

/-! ### Value and state, stretch by stretch -/

section

variable {t0 tau : Nat} {v0 aT dT rT x u : Rat}

theorem envelope_attack (hu : (tau : Rat) - t0 = u) (h : u < aT) :
    envVal (.ad t0 v0 aT dT x) tau = v0 + (1 - v0) * u / aT ∧ envState (.ad t0 v0 aT dT x) tau = .attack := by
  subst hu
  exact ⟨if_pos h, if_pos h⟩

theorem envelope_decay (hu : (tau : Rat) - t0 = u) (ha : aT ≤ u) (hd : u < aT + dT) :
    envVal (.ad t0 v0 aT dT x) tau = 1 + (x - 1) * (u - aT) / dT ∧ envState (.ad t0 v0 aT dT x) tau = .decay := by
  subst hu
  exact ⟨(if_neg ha.not_gt).trans (if_pos hd), (if_neg ha.not_gt).trans (if_pos hd)⟩

theorem envelope_sustain (hu : (tau : Rat) - t0 = u) (ha : aT ≤ u) (hd : aT + dT ≤ u) :
    envVal (.ad t0 v0 aT dT x) tau = x ∧ envState (.ad t0 v0 aT dT x) tau = .sustain := by
  subst hu
  exact ⟨(if_neg ha.not_gt).trans (if_neg hd.not_gt), (if_neg ha.not_gt).trans (if_neg hd.not_gt)⟩

theorem envelope_release (hu : (tau : Rat) - t0 = u) (h : u < rT) :
    envVal (.rel t0 v0 rT) tau = v0 * (1 - u / rT) ∧ envState (.rel t0 v0 rT) tau = .release := by
  subst hu
  exact ⟨if_pos h, if_pos h⟩

theorem envelope_idle (hu : (tau : Rat) - t0 = u) (h : rT ≤ u) :
    envVal (.rel t0 v0 rT) tau = 0 ∧ envState (.rel t0 v0 rT) tau = .idle := by
  subst hu
  exact ⟨if_neg h.not_gt, if_neg h.not_gt⟩

end

/-! ### A trigger does not move the value -/

/-- A schedule starts where the one before stands (43_envelope.md R161). -/
theorem envVal_attackSchedule (cfg : Config) (a : Adsr) (e : Envelope) (t : Nat) :
    envVal (attackSchedule cfg a e t) t = envVal e t := by
  rw [attackSchedule_eq, (envelope_attack (sub_self (t : Rat)) (rampTicks_pos cfg _)).1, mul_zero, zero_div, add_zero]

theorem envVal_releaseSchedule (cfg : Config) (a : Adsr) (e : Envelope) (t : Nat) :
    envVal (releaseSchedule cfg a e t) t = envVal e t := by
  rw [releaseSchedule_eq, (envelope_release (sub_self (t : Rat)) (rampTicks_pos cfg _)).1, zero_div, sub_zero, mul_one]

theorem whenStarted_trigger_continuous {f : Adsr → Envelope → Nat → Envelope}
    (hf : ∀ a e t, envVal (f a e t) t = envVal e t) (v w : VoiceId) (s : State) :
    (whenStarted (trigger f v) s).t = s.t ∧
      envVal ((whenStarted (trigger f v) s).voices.get w).env (whenStarted (trigger f v) s).t =
        envVal (s.voices.get w).env s.t := by
  have ht := whenStarted_trigger_t f v s
  refine ⟨ht, ?_⟩
  rw [ht]
  rcases whenStarted_trigger_env f v w s with h | h
  · rw [h, hf]
  · rw [h]

/-! ### The schedule a number of ticks later -/

theorem tickEvent_t {s : State} (hr : s.run = .running) (src : Triple Rat) :
    (tickEvent Config.build src s).t = s.t + 1 := by
  obtain ⟨-, hticks, -⟩ := tickEnabling s src
  exact (hticks hr).1

theorem advanceVoice_env (cfg : Config) (V : Voice) : (advanceVoice cfg V).env = V.env := by
  unfold advanceVoice
  split <;> rfl

/-- No tick writes a schedule (40_commands.md R111). -/
theorem tickEvent_env (cfg : Config) (src : Triple Rat) (s : State) (v : VoiceId) :
    ((tickEvent cfg src s).voices.get v).env = (s.voices.get v).env := by
  by_cases hr : s.run = .running
  · cases hx : s.fx.fxv with
    | false => rw [tickEvent_silent cfg src hr hx, tickSilent_voices]
    | true => rw [tickEvent_active cfg src hr hx, tickActive_voices, Triple.get_each, advanceVoice_env]
  · rw [tickEvent_stopped cfg src hr, tickIdle_voices]

theorem ticks_env (srcs : List (Triple Rat)) (s : State) (v : VoiceId) :
    ((ticks srcs s).voices.get v).env = (s.voices.get v).env :=
  ticks_induction (P := fun u => (u.voices.get v).env = (s.voices.get v).env)
    (fun src u hu => (tickEvent_env _ src u v).trans hu) srcs rfl

theorem ticks_t (srcs : List (Triple Rat)) {s : State} (hr : s.run = .running) :
    (ticks srcs s).t = s.t + srcs.length := by
  induction srcs generalizing s with
  | nil => rfl
  | cons src srcs ih =>
    rw [ticks_cons, ih ((tickEvent_run _ src s).trans hr), tickEvent_t hr, List.length_cons, Nat.add_right_comm,
      Nat.add_assoc]

/-- The schedule a trigger has set, and the tick count, after any number of ticks in RUNNING. -/
theorem ticks_trigger {f : Adsr → Envelope → Nat → Envelope} {v : VoiceId} {s : State} (hr : s.run = .running)
    (hp : (s.voices.get v).present = true) (srcs : List (Triple Rat)) :
    ((ticks srcs (whenStarted (trigger f v) s)).voices.get v).env = f (s.voices.get v).adsr (s.voices.get v).env s.t ∧
      (ticks srcs (whenStarted (trigger f v) s)).t = s.t + srcs.length := by
  rw [whenStarted_trigger_acts (by simp [hr]) hp]
  exact ⟨(ticks_env srcs _ v).trans (congrArg Voice.env (Triple.get_set_same _ _ _)), ticks_t srcs hr⟩

/-- Settles O27: ticks leave the schedule and count themselves, so the stretch is that of the ticks since the
trigger. -/
theorem envelopeTimeline : Obligations.EnvelopeTimeline := by
  intro s v srcs hr hp n v0 ramp A D R S
  have hu : ((s.t + srcs.length : Nat) : Rat) - s.t = n := by rw [Nat.cast_add, add_sub_cancel_left]
  have hD : 0 < D := rampTicks_pos Config.build _
  constructor
  · intro t ht u E
    cases (exec_attack v s).symm.trans ht
    obtain ⟨henv, htick⟩ := ticks_trigger (f := attackSchedule Config.build) hr hp srcs
    have hE : E = .ad s.t v0 A D S := henv.trans (attackSchedule_eq _ _ _ _)
    have hut : u.t = s.t + srcs.length := htick
    rw [hE, hut]
    exact ⟨envelope_attack hu, envelope_decay hu, fun h => envelope_sustain hu (by linarith) h⟩
  · intro t ht u E
    cases (exec_release v s).symm.trans ht
    obtain ⟨henv, htick⟩ := ticks_trigger (f := releaseSchedule Config.build) hr hp srcs
    have hE : E = .rel s.t v0 R := henv.trans (releaseSchedule_eq _ _ _ _)
    have hut : u.t = s.t + srcs.length := htick
    rw [hE, hut]
    exact ⟨envelope_release hu, envelope_idle hu⟩

/-! ### Saturating ramps -/

/-- The part of a ramp of length `d` that has passed `u` ticks after its start: 0 before the start, 1 after the end. -/
def rampDone (u d : Rat) : Rat := within (u / d) 0 1

section

variable {u w d : Rat}

theorem rampDone_of_nonpos (hd : 0 < d) (hu : u ≤ 0) : rampDone u d = 0 := by
  rw [rampDone, within, max_eq_right (div_nonpos_of_nonpos_of_nonneg hu hd.le), min_eq_left zero_le_one]

theorem rampDone_of_mem (hd : 0 < d) (hu : 0 ≤ u) (h : u ≤ d) : rampDone u d = u / d := by
  rw [rampDone, within, max_eq_left (div_nonneg hu hd.le), min_eq_left ((div_le_one hd).2 h)]

theorem rampDone_of_ge (hd : 0 < d) (h : d ≤ u) : rampDone u d = 1 :=
  min_eq_right (((one_le_div hd).2 h).trans (le_max_left _ _))

theorem rampDone_mono (hd : 0 < d) (h : u ≤ w) : rampDone u d ≤ rampDone w d :=
  min_le_min_right 1 (max_le_max_right 0 (div_le_div_of_nonneg_right h hd.le))

/-- A tick is worth at most the part `1 / d` of a ramp. -/
theorem rampDone_succ_le (hd : 0 < d) : rampDone (u + 1) d ≤ rampDone u d + 1 / d := by
  have hpart : 0 ≤ 1 / d := one_div_nonneg.2 hd.le
  rw [rampDone, rampDone, within, within, add_div, min_add]
  refine min_le_min ?_ (le_add_of_nonneg_right hpart)
  rw [max_add]
  exact max_le_max_left _ (le_add_of_nonneg_right hpart)

/-- What a tick adds of a height `c` up to 1 that is ramped in. -/
theorem rampStep_mem {c : Rat} (hd : 0 < d) (hc0 : 0 ≤ c) (hc1 : c ≤ 1) :
    0 ≤ c * (rampDone (u + 1) d - rampDone u d) ∧ c * (rampDone (u + 1) d - rampDone u d) ≤ 1 / d := by
  have hstep : 0 ≤ rampDone (u + 1) d - rampDone u d := sub_nonneg.2 (rampDone_mono hd (lt_add_one u).le)
  exact ⟨mul_nonneg hc0 hstep,
    (mul_le_of_le_one_left hstep hc1).trans (sub_le_iff_le_add'.2 (rampDone_succ_le hd))⟩

end

/-! ### The curve as a sum of ramps -/

section

variable {t0 tau n : Nat} {v0 aT dT rT x : Rat}

/-- Attack and decay over all stretches: what is missing to 1 is ramped in, then what exceeds the sustain level is
ramped out (43_envelope.md R162). -/
theorem envVal_ad (ha : 0 < aT) (hd : 0 < dT) (ht : t0 ≤ tau) :
    envVal (.ad t0 v0 aT dT x) tau =
      v0 + (1 - v0) * rampDone ((tau : Rat) - t0) aT - (1 - x) * rampDone ((tau : Rat) - t0 - aT) dT := by
  have hu : (0 : Rat) ≤ (tau : Rat) - t0 := sub_nonneg.2 (Nat.cast_le.2 ht)
  rcases lt_or_ge ((tau : Rat) - t0) aT with h | h
  · rw [(envelope_attack rfl h).1, rampDone_of_mem ha hu h.le, rampDone_of_nonpos hd (sub_nonpos.2 h.le)]
    ring
  rw [rampDone_of_ge ha h]
  rcases lt_or_ge ((tau : Rat) - t0) (aT + dT) with h' | h'
  · rw [(envelope_decay rfl h h').1, rampDone_of_mem hd (sub_nonneg.2 h) (by linarith)]
    ring
  · rw [(envelope_sustain rfl h h').1, rampDone_of_ge hd (by linarith)]
    ring

theorem envVal_rel (hr : 0 < rT) (ht : t0 ≤ tau) :
    envVal (.rel t0 v0 rT) tau = v0 - v0 * rampDone ((tau : Rat) - t0) rT := by
  have hu : (0 : Rat) ≤ (tau : Rat) - t0 := sub_nonneg.2 (Nat.cast_le.2 ht)
  rcases lt_or_ge ((tau : Rat) - t0) rT with h | h
  · rw [(envelope_release rfl h).1, rampDone_of_mem hr hu h.le, mul_one_sub]
  · rw [(envelope_idle rfl h).1, rampDone_of_ge hr h, mul_one, sub_self]

theorem ticksSince_succ (t0 tau : Nat) : ((tau + 1 : Nat) : Rat) - t0 = (tau : Rat) - t0 + 1 := by
  push_cast
  ring

/-- One tick of an attack and decay: a step up and a step down, each in its ramp. -/
theorem envVal_ad_succ (h : EnvelopeOk n (.ad t0 v0 aT dT x)) (ht : t0 ≤ tau) : ∃ up down : Rat,
    envVal (.ad t0 v0 aT dT x) (tau + 1) = envVal (.ad t0 v0 aT dT x) tau + up - down ∧
      (0 ≤ up ∧ up ≤ 1 / aT) ∧ (aT ≤ (tau : Rat) - t0 → up = 0) ∧
      (0 ≤ down ∧ down ≤ 1 / dT) ∧ (((tau + 1 : Nat) : Rat) - t0 ≤ aT → down = 0) := by
  obtain ⟨-, hv0, hv1, ha, hd, hx0, hx1⟩ := h
  rw [ticksSince_succ, envVal_ad ha hd ht, envVal_ad ha hd (ht.trans (Nat.le_succ tau)), ticksSince_succ]
  generalize (tau : Rat) - t0 = u
  rw [add_sub_right_comm u 1 aT]
  refine ⟨(1 - v0) * (rampDone (u + 1) aT - rampDone u aT),
    (1 - x) * (rampDone (u - aT + 1) dT - rampDone (u - aT) dT), by ring,
    rampStep_mem ha (by linarith) (by linarith), fun hu => ?_,
    rampStep_mem hd (by linarith) (by linarith), fun hu => ?_⟩
  · rw [rampDone_of_ge ha hu, rampDone_of_ge ha (by linarith), sub_self, mul_zero]
  · rw [rampDone_of_nonpos hd (by linarith), rampDone_of_nonpos hd (by linarith), sub_self, mul_zero]

/-- One tick of a release: a step down in its ramp. -/
theorem envVal_rel_succ (h : EnvelopeOk n (.rel t0 v0 rT)) (ht : t0 ≤ tau) : ∃ down : Rat,
    envVal (.rel t0 v0 rT) (tau + 1) = envVal (.rel t0 v0 rT) tau - down ∧ 0 ≤ down ∧ down ≤ 1 / rT := by
  obtain ⟨-, hv0, hv1, hr⟩ := h
  rw [envVal_rel hr ht, envVal_rel hr (ht.trans (Nat.le_succ tau)), ticksSince_succ]
  generalize (tau : Rat) - t0 = u
  exact ⟨v0 * (rampDone (u + 1) rT - rampDone u rT), by ring, rampStep_mem hr hv0 hv1⟩

theorem abs_envVal_ad_succ_sub_le (h : EnvelopeOk n (.ad t0 v0 aT dT x)) (ht : t0 ≤ tau) :
    |envVal (.ad t0 v0 aT dT x) (tau + 1) - envVal (.ad t0 v0 aT dT x) tau| ≤ 1 / min aT dT := by
  obtain ⟨up, down, hstep, ⟨hup, hup'⟩, -, ⟨hdown, hdown'⟩, -⟩ := envVal_ad_succ h ht
  obtain ⟨-, -, -, ha, hd, -, -⟩ := h
  have hmin : 0 < min aT dT := lt_min ha hd
  have hA : 1 / aT ≤ 1 / min aT dT := one_div_le_one_div_of_le hmin (min_le_left _ _)
  have hD : 1 / dT ≤ 1 / min aT dT := one_div_le_one_div_of_le hmin (min_le_right _ _)
  exact abs_le.2 ⟨by linarith, by linarith⟩

theorem abs_envVal_rel_succ_sub_le (h : EnvelopeOk n (.rel t0 v0 rT)) (ht : t0 ≤ tau) :
    |envVal (.rel t0 v0 rT) (tau + 1) - envVal (.rel t0 v0 rT) tau| ≤ 1 / rT := by
  obtain ⟨down, hstep, hdown, hdown'⟩ := envVal_rel_succ h ht
  exact abs_le.2 ⟨by linarith, by linarith⟩

end

/-- A ramp is no shorter than the floor, which is a millisecond or more (43_envelope.md R158, R165). -/
theorem fs_div_le_rampTicks (cfg : Config) (r : Half) : (cfg.fs : Rat) / 1000 ≤ rampTicks cfg r := by
  have hms : (1 : Rat) ≤ (max (ms r) cfg.tFloorMs : Nat) := by
    exact_mod_cast cfg.tFloorMs_pos.trans_le (le_max_right _ _)
  rw [rampTicks, msToTicks, mul_div_assoc]
  exact le_mul_of_one_le_left (by positivity) hms

/-! ### The statements -/

/-- Settles O26: a schedule starts where the one before stands, and a tick moves the curve by one step of each ramp. -/
theorem triggerContinuity : Obligations.TriggerContinuity := by
  refine ⟨fun s t i v w hi h => ?_, fun n t0 tau v0 aT dT x h => abs_envVal_ad_succ_sub_le h,
    fun n t0 tau v0 rT h => abs_envVal_rel_succ_sub_le h, fun cfg r hfs => ?_⟩
  · rcases hi with rfl | rfl
    · cases (exec_attack v s).symm.trans h
      exact whenStarted_trigger_continuous (envVal_attackSchedule _) v w s
    · cases (exec_release v s).symm.trans h
      exact whenStarted_trigger_continuous (envVal_releaseSchedule _) v w s
  · have hfs' : (40000 : Rat) < cfg.fs := by exact_mod_cast hfs
    have hms : (40 : Rat) < (cfg.fs : Rat) / 1000 := by linarith
    exact hms.trans_le (fs_div_le_rampTicks cfg r)

/-- Settles O28: the curve of a legal schedule is legal at every later tick; no step down is taken inside the attack and
no step up after it. -/
theorem envelopeRange : Obligations.EnvelopeRange := by
  refine ⟨fun e t tau h htau => envVal_mem (h.mono htau), fun t0 tau n v0 aT dT x h ht => ?_,
    fun t0 tau n v0 rT h ht => ?_⟩
  · obtain ⟨up, down, hstep, ⟨hup, -⟩, hup0, ⟨hdown, -⟩, hdown0⟩ := envVal_ad_succ h ht
    refine ⟨fun hattack => ?_, fun hafter => ?_⟩
    · rw [hstep, hdown0 hattack]; linarith
    · rw [hstep, hup0 hafter]; linarith
  · obtain ⟨down, hstep, hdown, -⟩ := envVal_rel_succ h ht
    linarith

end Sys2Proof.Proofs
end

section
/-!
The effects bus at an APPLY (44_effects_bus.md R175 to R179). Each clamped register is the value its smoother is
retargeted to. The feedback register is clamped below 1, and a smoother moves by convex steps, so the loop gain of the
delay line stays below 1 whatever the registers hold.
-/

open Sys2Proof Sys2Proof.Machine Sys2Proof.Claims

namespace Sys2Proof.Proofs

/-- What APPLY writes into the effects record, next to the impulse response and the intensity (44_effects_bus.md R175
to R179). -/
theorem reconcile_fx (cfg : Config) (s : State) : ∃ irMs irLen syn k,
    (reconcile cfg s).fx = { applyEffects cfg s.patch s.fx with
      irMs := irMs, irLen := irLen, syn := syn, k := k, fxv := true } := by
  rcases reconcile_cases cfg s with ⟨-, e⟩ | ⟨-, e⟩
  · rw [e]; exact ⟨_, _, _, _, rfl⟩
  · rw [e]; exact ⟨_, _, _, _, rfl⟩

/-- APPLY leaves the signal state of the effects bus alone and rebuilds the waveshaper's table (44_effects_bus.md R176;
45_curve_generators.md R209). -/
theorem reconcile_signals (cfg : Config) (s : State) :
    (reconcile cfg s).filt = s.filt ∧ (reconcile cfg s).dl = s.dl ∧ (reconcile cfg s).rh = s.rh ∧
      (reconcile cfg s).lut = driveTable cfg (driveIntensity cfg s.patch.drive) := by
  rcases reconcile_cases cfg s with ⟨-, e⟩ | ⟨-, e⟩
  · rw [e]; exact ⟨rfl, rfl, rfl, rfl⟩
  · rw [e]; exact ⟨rfl, rfl, rfl, rfl⟩

theorem retargeted_clamp (s : Smoother) (x a : Rat) {lo hi : Rat} (h : lo ≤ hi) :
    Retargeted s (retarget s (clamp x lo hi) a) (within x lo hi) a :=
  clamp_eq_within h x ▸ retargeted_retarget s _ a

/-- The loop gain after APPLY (44_effects_bus.md R177). -/
theorem applyEffects_dfb_mem (cfg : Config) (p : Patch) {fx : Effects} (h : Loadable 0 (19 / 20) fx.dfb) :
    SmootherIn 0 (19 / 20) (applyEffects cfg p fx).dfb :=
  h.retarget (alphaSmooth_mem cfg) (le_clamp (by norm_num [fbMax])) (clamp_le (by norm_num [fbMax]))

/-- A tick advances the effects record or leaves it alone. -/
theorem tickEvent_fx (cfg : Config) (src : Triple Rat) (s : State) :
    (tickEvent cfg src s).fx = s.fx ∨ (tickEvent cfg src s).fx = advanceEffects s.fx := by
  by_cases hr : s.run = .running
  · cases hx : s.fx.fxv with
    | false => rw [tickEvent_silent cfg src hr hx]; exact .inl rfl
    | true => rw [tickEvent_active cfg src hr hx]; exact .inr rfl
  · rw [tickEvent_stopped cfg src hr]; exact .inl rfl

/-- Settles O20: each smoother of the effects record is retargeted to its clamped register, and the loop gain is one of
the values that clamping and convex steps keep in range. -/
theorem applyEffectTargets : Obligations.ApplyEffectTargets := by
  refine ⟨?apply, ?tick⟩
  case apply =>
    intro s t hr h p a
    obtain rfl := exec_apply_started h hr
    obtain ⟨_, _, _, _, e⟩ := reconcile_fx Config.build s
    obtain ⟨hfilt, -⟩ := reconcile_signals Config.build s
    have htime : Retargeted s.fx.dtime (applyEffects Config.build p s.fx).dtime
        (within p.dtime.toNat 0 Config.build.delayMaxMs / 1000) a :=
      clamp_eq_within (Nat.cast_nonneg Config.build.delayMaxMs) (p.dtime.toNat : Rat) ▸ retargeted_retarget _ _ _
    rw [e]
    exact ⟨retargeted_clamp _ _ _ (by norm_num [cutoffMin, cutoffMax]), retargeted_clamp _ _ _ (by norm_num [qMax]),
      htime, retargeted_clamp _ _ _ (by norm_num [fbMax]), retargeted_clamp _ _ _ zero_le_one,
      retargeted_clamp _ _ _ zero_le_one, retargeted_retarget _ _ _, congrArg filterTypeOf, congrArg filterTypeOf,
      congrArg filterTypeOf, congrArg filterTypeOf, congrArg filterTypeOf, hfilt,
      fun hdfb => applyEffects_dfb_mem _ p (hdfb.elim .of_not_valid .of_in)⟩
  case tick =>
    intro s src h
    rcases tickEvent_fx Config.build src s with e | e
    · rw [e]; exact h
    · rw [e]; exact h.advance

end Sys2Proof.Proofs
end

section
/-!
The effects bus in a tick, from the filter to the output frame (44_effects_bus.md R180, R181, R190 to R198). The
limiter's gain is in (0, 1] for every detector value that is not negative, and the detector never is.
-/

open Sys2Proof Sys2Proof.Machine Sys2Proof.Claims

namespace Sys2Proof.Proofs

/-! ### The filter -/

theorem cutoffMod_build (s : State) : cutoffMod Config.build s.voices =
    cutoffAdds (s.voices.get .v0) + cutoffAdds (s.voices.get .v1) + cutoffAdds (s.voices.get .v2) := rfl

/-- The coefficients of the tick, at the clamped sum of cutoff and modulation (44_effects_bus.md R180). -/
theorem filterCoefs_eq (cfg : Config) (s : State) : filterCoefs cfg s =
    cfg.biquadCoef s.fx.ftype (within (s.fx.fc.cur + cutoffMod cfg s.voices) 20 20000) s.fx.fq.cur cfg.fs := by
  rw [filterCoefs, cutoffEff, clamp_eq_within (by norm_num [cutoffMin, cutoffMax])]
  rfl

theorem tickEvent_filt (cfg : Config) (src : Triple Rat) {s : State} (hr : s.run = .running) (hx : s.fx.fxv = true)
    (c : Chan) : (tickEvent cfg src s).filt.get c = filterNext cfg src s c := by
  rw [tickEvent_active cfg src hr hx, tickActive_filt, Stereo.get_each]

/-- Settles O45: the output is the section with the coefficients of the tick, and the state after it moves on by one
sample. -/
theorem tickFilter : Obligations.TickFilter := by
  intro s src c hr hx cfg cmod k f x y
  have hk : filterCoefs cfg s = k := by rw [filterCoefs_eq, cutoffMod_build]
  exact ⟨hk ▸ rfl, tickEvent_filt cfg src hr hx c⟩

/-! ### The output stage -/

/-- The place of a lookup, in the statement's words (44_effects_bus.md R192). -/
theorem lutPos_eq (cfg : Config) (x : Rat) : lutPos cfg x = (within x (-1) 1 + 1) / 2 * ((cfg.wsN : Rat) - 1) := by
  rw [lutPos, clamp_eq_within (by norm_num)]

theorem limNext_nonneg (cfg : Config) (src : Triple Rat) {s : State} (h : 0 ≤ s.limE) : 0 ≤ limNext cfg src s :=
  detectorNext_nonneg cfg h ((abs_nonneg _).trans (le_max_left _ _))

/-- A gain in (0, 1] does not amplify. -/
theorem abs_mul_le_of_gain {g x : Rat} (h0 : 0 < g) (h1 : g ≤ 1) : |g * x| ≤ |x| := by
  rw [abs_mul, abs_of_pos h0]
  exact mul_le_of_le_one_left (abs_nonneg x) h1

/-- Settles O48: the tick leaves its signals in the detector, the ports and the recording; the gain is the limiter curve
at a detector value that is not negative. -/
theorem tickOutput : Obligations.TickOutput := by
  intro s src hr hx he cfg t
  have ht : t = tickActive cfg src s := tickEvent_active cfg src hr hx
  have hlim : 0 ≤ t.limE := by rw [ht]; exact limNext_nonneg cfg src he
  refine ⟨fun c => ⟨?_, cfg.limCurve t.limE, rfl, cfg.limCurve_pos _ hlim, cfg.limCurve_le _ hlim, ?_,
    abs_mul_le_of_gain (cfg.limCurve_pos _ hlim) (cfg.limCurve_le _ hlim)⟩, ?_, hlim, ?_⟩
  · rw [← lutPos_eq]; rfl
  · rw [ht, tickActive_ports, Stereo.get_each]; rfl
  · rintro p rfl
    rw [ht]
    exact ⟨fun h => if_pos h, fun h => if_neg (not_lt.2 h)⟩
  · rw [ht, ← recordFrame_eq, ← capturePort_eq]
    exact ⟨rfl, rfl, rfl⟩

end Sys2Proof.Proofs
end

section
/-!
The waveshaper's lookup under every configuration (44_effects_bus.md R192, R193; 45_curve_generators.md R211). The grid
mirrors at its middle, so a table of an odd function is odd. The lookup interpolates between two neighbours: in the
middle of an odd table the neighbours cancel, and a bound of the cells bounds what lies between them.
-/

open Sys2Proof Sys2Proof.Machine Sys2Proof.Claims

namespace Sys2Proof.Proofs

section

variable (cfg : Config)

/-! ### The grid and its tables -/

/-- A table whose cells change their sign when it is read from the other end (44_effects_bus.md R193). -/
def OddTable (m : SampleMem) : Prop := ∀ i, i < cfg.wsN → memRead m (cfg.wsN - 1 - i) = -memRead m i

/-- The last grid index, as a rational. -/
theorem wsN_sub_one_ge : (1 : Rat) ≤ (cfg.wsN : Rat) - 1 := by
  have h : (2 : Rat) ≤ cfg.wsN := by exact_mod_cast cfg.wsN_ge
  linarith

theorem gridPoint_mirror {i : Nat} (h : i < cfg.wsN) : gridPoint cfg (cfg.wsN - 1 - i) = -gridPoint cfg i := by
  have hn := wsN_sub_one_ge cfg
  have hcast : ((cfg.wsN - 1 - i : Nat) : Rat) = (cfg.wsN : Rat) - 1 - i := by
    rw [Nat.cast_sub (by omega), Nat.cast_sub (by omega), Nat.cast_one]
  rw [gridPoint, gridPoint, hcast]
  field_simp
  ring

/-- The table of an odd function on the grid is odd. -/
theorem oddTable_of_odd {f : Rat → Rat} (h : ∀ x, f (-x) = -f x) :
    OddTable cfg (memTable cfg.wsN fun i => f (gridPoint cfg i)) := by
  intro i hi
  rw [memRead_memTable, memRead_memTable, if_pos hi, if_pos (by omega), gridPoint_mirror cfg hi, h]

/-- The curve is odd: the denominator sees the magnitude alone (45_curve_generators.md R210, R211). -/
theorem curve_neg (k x : Rat) : curve cfg k (-x) = -curve cfg k x := by
  rw [curve, curve, abs_neg]
  split
  · rfl
  · ring

theorem oddTable_driveTable (hq : ∀ y, cfg.q (-y) = -cfg.q y) (k : Rat) : OddTable cfg (driveTable cfg k) :=
  oddTable_of_odd cfg (f := fun x => cfg.q (curve cfg k x)) fun x => by rw [curve_neg, hq]

theorem oddTable_identityTable : OddTable cfg (identityTable cfg) := oddTable_of_odd cfg (f := id) fun _ => rfl

/-! ### The place of the lookup -/

theorem lutPos_nonneg (x : Rat) : 0 ≤ lutPos cfg x := by
  have hx : (-1 : Rat) ≤ clamp x (-1) 1 := le_clamp (by norm_num)
  exact mul_nonneg (by linarith) (by linarith [wsN_sub_one_ge cfg])

theorem lutPos_le (x : Rat) : lutPos cfg x ≤ (cfg.wsN : Rat) - 1 := by
  have hx : clamp x (-1) 1 ≤ (1 : Rat) := clamp_le (by norm_num)
  exact mul_le_of_le_one_left (by linarith [wsN_sub_one_ge cfg]) (by linarith)

/-- The right neighbour is a cell of the table too. -/
theorem lutIndex_succ_lt (x : Rat) : lutIndex cfg x + 1 < cfg.wsN := by
  have h : lutIndex cfg x ≤ cfg.wsN - 2 := min_le_right _ _
  have := cfg.wsN_ge
  omega

theorem lutPos_floor_cast (x : Rat) : (((lutPos cfg x).floor.toNat : Nat) : Rat) = ((lutPos cfg x).floor : Rat) := by
  have h : 0 ≤ (lutPos cfg x).floor := Int.floor_nonneg.2 (lutPos_nonneg cfg x)
  exact_mod_cast congrArg (Int.cast (R := Rat)) (Int.toNat_of_nonneg h)

/-- The place of the lookup lies between the two neighbours; at the right end of the grid it is the right one. -/
theorem lutPos_sub_lutIndex_mem (x : Rat) :
    0 ≤ lutPos cfg x - lutIndex cfg x ∧ lutPos cfg x - lutIndex cfg x ≤ 1 := by
  have hfloor : (((lutPos cfg x).floor.toNat : Nat) : Rat) ≤ lutPos cfg x :=
    (lutPos_floor_cast cfg x).le.trans (Int.floor_le _)
  have hceil : lutPos cfg x < (((lutPos cfg x).floor.toNat : Nat) : Rat) + 1 :=
    (lutPos_floor_cast cfg x) ▸ Int.lt_floor_add_one (lutPos cfg x)
  rcases min_choice (lutPos cfg x).floor.toNat (cfg.wsN - 2) with hi | hi
  · rw [lutIndex, hi]
    exact ⟨by linarith, by linarith⟩
  · have hle : cfg.wsN - 2 ≤ (lutPos cfg x).floor.toNat := min_eq_right_iff.1 hi
    have hcast : ((cfg.wsN - 2 : Nat) : Rat) = (cfg.wsN : Rat) - 2 := Nat.cast_sub cfg.wsN_ge
    have hle' : ((cfg.wsN - 2 : Nat) : Rat) ≤ (((lutPos cfg x).floor.toNat : Nat) : Rat) := Nat.cast_le.2 hle
    have hend := lutPos_le cfg x
    rw [lutIndex, hi]
    exact ⟨by linarith, by linarith⟩

/-! ### The lookup -/

/-- The middle of the grid is a cell or lies halfway between two cells. -/
theorem lutPos_zero : lutPos cfg 0 = ((cfg.wsN : Rat) - 1) / 2 := by
  rw [lutPos, clamp_of_mem (by norm_num) (by norm_num)]
  ring

theorem lutIndex_zero : lutIndex cfg 0 = (cfg.wsN - 1) / 2 := by
  have hn := cfg.wsN_ge
  have hpos : lutPos cfg 0 = ((cfg.wsN - 1 : Nat) : Rat) / (2 : Nat) := by
    rw [lutPos_zero, Nat.cast_sub (by omega), Nat.cast_one, Nat.cast_ofNat]
  have hfloor : (lutPos cfg 0).floor = ((cfg.wsN - 1) / 2 : Nat) := by
    rw [hpos]
    exact Rat.floor_natCast_div_natCast _ _
  rw [lutIndex, hfloor, Int.toNat_natCast]
  omega

/-- In the middle of an odd table a cell is 0, or the two neighbours cancel. -/
theorem lutLookup_zero_of_odd {m : SampleMem} (h : OddTable cfg m) : lutLookup cfg m 0 = 0 := by
  have hn := cfg.wsN_ge
  have hodd := h ((cfg.wsN - 1) / 2) (by omega)
  rw [lutLookup, lutPos_zero, lutIndex_zero]
  obtain ⟨k, hk | hk⟩ := Nat.even_or_odd' (cfg.wsN - 1)
  · have hcast : (cfg.wsN : Rat) - 1 = 2 * k := by
      rw [← Nat.cast_one, ← Nat.cast_sub (by omega), hk, Nat.cast_mul, Nat.cast_ofNat]
    have hmid : memRead m k = 0 := by
      rw [hk, Nat.mul_div_cancel_left k two_pos, two_mul, Nat.add_sub_cancel] at hodd
      linarith
    rw [hk, Nat.mul_div_cancel_left k two_pos, hcast, hmid]
    ring
  · have hcast : (cfg.wsN : Rat) - 1 = 2 * k + 1 := by
      rw [← Nat.cast_one, ← Nat.cast_sub (by omega), hk]
      push_cast
      rfl
    have hhalf : (2 * k + 1) / 2 = k := by omega
    rw [hk, hhalf, show 2 * k + 1 - k = k + 1 by omega] at hodd
    rw [hk, hhalf, hcast, hodd]
    ring

/-- Between two neighbours of the grid the identity table is the straight line. -/
theorem lutLookup_identityTable (x : Rat) : lutLookup cfg (identityTable cfg) x = within x (-1) 1 := by
  have hi := lutIndex_succ_lt cfg x
  have hn := wsN_sub_one_ge cfg
  have hread {i : Nat} (h : i < cfg.wsN) : memRead (identityTable cfg) i = gridPoint cfg i :=
    (memRead_memTable _ _ i).trans (if_pos h)
  rw [lutLookup, hread hi, hread (by omega), lutPos_eq, gridPoint, gridPoint]
  push_cast
  field_simp
  ring

/-- What lies between two numbers obeys a bound of both. -/
theorem abs_lerp_le {a b u B : Rat} (ha : |a| ≤ B) (hb : |b| ≤ B) (h0 : 0 ≤ u) (h1 : u ≤ 1) :
    |a + u * (b - a)| ≤ B := by
  rw [abs_le] at *
  constructor <;> nlinarith

theorem abs_lutLookup_le {m : SampleMem} {B : Rat} (h : ∀ i, i < cfg.wsN → |memRead m i| ≤ B) (x : Rat) :
    |lutLookup cfg m x| ≤ B := by
  have hi := lutIndex_succ_lt cfg x
  obtain ⟨h0, h1⟩ := lutPos_sub_lutIndex_mem cfg x
  exact abs_lerp_le (h _ (by omega)) (h _ hi) h0 h1

end

/-- Settles O51: tables of odd functions on the mirrored grid, and the interpolation between two neighbours. -/
theorem lookupProperties : Obligations.LookupProperties := fun cfg _ x =>
  ⟨fun hq k _ => oddTable_driveTable cfg hq k, oddTable_identityTable cfg, fun h => lutLookup_zero_of_odd cfg h,
    lutLookup_identityTable cfg x, fun _ hB => abs_lutLookup_le cfg hB x⟩

end Sys2Proof.Proofs
end

section
/-!
Silence in, silence out (44_effects_bus.md R199). An odd quantiser leaves 0 alone, so a tick that hears nothing writes
zeros over zeros; an odd table has 0 in its middle, so the drive stage adds nothing either.
-/

open Sys2Proof Sys2Proof.Machine Sys2Proof.Claims

namespace Sys2Proof.Proofs

/-! ### Memories that hold zeros only -/

/-- A memory in canonical form whose every cell reads 0. -/
structure SilentMem (m : SampleMem) : Prop where
  wf : memWf m
  read : ∀ a, memRead m a = 0

theorem silentMem_nil : SilentMem [] := ⟨⟨List.Pairwise.nil, nofun⟩, memRead_nil⟩

theorem SilentMem.write {m : SampleMem} (h : SilentMem m) (a : Nat) {x : Rat} (hx : x = 0) :
    SilentMem (memWrite m a x) := by
  refine ⟨memWf_memWrite a x h.wf, fun b => ?_⟩
  by_cases hb : b = a
  · rw [hb, memRead_memWrite_same a x h.wf, hx]
  · rw [memRead_memWrite_ne m x hb, h.read]

/-! ### Quiet states -/

/-- `Quiet`, its parts by name. -/
structure QuietSignals (cfg : Config) (s : State) : Prop where
  filt : ∀ c, s.filt.get c = ⟨0, 0, 0, 0⟩
  dl : ∀ c, SilentMem (s.dl.get c)
  rh : ∀ c, SilentMem (s.rh.get c)
  lut : OddTable cfg s.lut

theorem quiet_iff {cfg : Config} {s : State} : Quiet cfg s ↔ QuietSignals cfg s := by
  refine ⟨fun ⟨hfilt, hdl, hrh, hlut⟩ => ⟨hfilt, fun c => ?_, fun c => ?_, hlut⟩,
    fun h => ⟨h.filt, fun c => ⟨(h.dl c).wf, (h.dl c).read⟩, fun c => ⟨(h.rh c).wf, (h.rh c).read⟩, h.lut⟩⟩
  · obtain ⟨hwf, hread⟩ := hdl c
    exact ⟨hwf, hread⟩
  · obtain ⟨hwf, hread⟩ := hrh c
    exact ⟨hwf, hread⟩

theorem quietSignals_reset (cfg : Config) : QuietSignals cfg { State.reset with lut := identityTable cfg } := by
  refine ⟨fun c => ?_, fun c => ?_, fun c => ?_, oddTable_identityTable cfg⟩
  · cases c <;> rfl
  · cases c <;> exact silentMem_nil
  · cases c <;> exact silentMem_nil

/-- An odd function of the samples leaves 0 alone. -/
theorem map_zero_of_odd {f : Rat → Rat} (h : ∀ y, f (-y) = -f y) : f 0 = 0 := by
  have h0 := h 0
  rw [neg_zero] at h0
  linarith

namespace QuietSignals

variable {cfg : Config} {s : State} (h : QuietSignals cfg s)

include h

/-- Being quiet is a matter of the filter, the two rings and the table. -/
theorem congr {t : State} (hfilt : t.filt = s.filt) (hdl : t.dl = s.dl) (hrh : t.rh = s.rh)
    (hlut : OddTable cfg t.lut) : QuietSignals cfg t :=
  ⟨hfilt ▸ h.filt, hdl ▸ h.dl, hrh ▸ h.rh, hlut⟩

theorem reconcile (hq : ∀ y, cfg.q (-y) = -cfg.q y) : QuietSignals cfg (reconcile cfg s) := by
  obtain ⟨hfilt, hdl, hrh, hlut⟩ := reconcile_signals cfg s
  exact h.congr hfilt hdl hrh (hlut ▸ oddTable_driveTable cfg hq _)

/-! ### The signals of a tick without input -/

theorem doutSig_eq (c : Chan) : doutSig cfg s c = 0 := (h.dl c).read _

variable {src : Triple Rat} (hin : ∀ c, finSig cfg src s c = 0)

include hin

theorem foutSig_eq (c : Chan) : foutSig cfg src s c = 0 := by
  rw [foutSig, sectionOut, h.filt c, hin c]
  ring

theorem dinSig_eq (c : Chan) : dinSig cfg src s c = 0 := by
  rw [dinSig, h.foutSig_eq hin, h.doutSig_eq]
  ring

variable (hq : cfg.q 0 = 0)

include hq

theorem filterNext_eq (c : Chan) : filterNext cfg src s c = ⟨0, 0, 0, 0⟩ := by
  rw [filterNext, sectionNext, hin c, h.foutSig_eq hin, h.filt c, hq]

theorem delayNext_silent (c : Chan) : SilentMem (delayNext cfg src s c) :=
  (h.dl c).write _ (by rw [h.dinSig_eq hin, hq])

theorem historyNext_silent (c : Chan) : SilentMem (historyNext cfg src s c) :=
  (h.rh c).write _ (by rw [h.foutSig_eq hin, hq])

theorem routSig_eq (c : Chan) : routSig cfg src s c = 0 := by
  rw [routSig_eq_sum]
  exact Finset.sum_eq_zero fun i _ => by rw [(h.historyNext_silent hin hq c).read, mul_zero]

/-- Nothing reaches the drive stage, and the middle of an odd table is 0 (44_effects_bus.md R193). -/
theorem outSig_eq (c : Chan) : outSig cfg src s c = 0 := by
  have hdrv : drvSig cfg src s c = 0 := by
    rw [drvSig, h.foutSig_eq hin, h.doutSig_eq, h.routSig_eq hin hq]
    ring
  rw [outSig, mgSig, wsSig, hdrv, lutLookup_zero_of_odd cfg h.lut, mul_zero, mul_zero, hq]

/-- The full tick step writes zeros over zeros and shows zeros. -/
theorem tickActive : QuietSignals cfg (tickActive cfg src s) ∧ (tickActive cfg src s).ports.out = ⟨0, 0⟩ := by
  refine ⟨⟨fun c => ?_, fun c => ?_, fun c => ?_, h.lut⟩, ?_⟩
  · rw [tickActive_filt, Stereo.get_each, h.filterNext_eq hin hq]
  · rw [tickActive_dl, Stereo.get_each]; exact h.delayNext_silent hin hq c
  · rw [tickActive_rh, Stereo.get_each]; exact h.historyNext_silent hin hq c
  · rw [tickActive_ports, funext (h.outSig_eq hin hq)]; rfl

theorem tickEvent : QuietSignals cfg (tickEvent cfg src s) ∧ (tickEvent cfg src s).ports.out = ⟨0, 0⟩ := by
  by_cases hr : s.run = .running
  · cases hx : s.fx.fxv with
    | false => rw [tickEvent_silent cfg src hr hx]; exact ⟨h.congr rfl rfl rfl h.lut, rfl⟩
    | true => rw [tickEvent_active cfg src hr hx]; exact h.tickActive hin hq
  · rw [tickEvent_stopped cfg src hr]; exact ⟨h.congr rfl rfl rfl h.lut, rfl⟩

end QuietSignals

/-- Settles O53: reset is quiet, APPLY writes an odd table only, and a tick without input writes zeros. -/
theorem silenceInSilenceOut : Obligations.SilenceInSilenceOut := by
  refine fun cfg hq => ⟨quiet_iff.2 (quietSignals_reset cfg), fun s h => ?_⟩
  have h := quiet_iff.1 h
  refine ⟨quiet_iff.2 (h.reconcile hq), fun src hin => ?_⟩
  obtain ⟨hquiet, hout⟩ := h.tickEvent hin (map_zero_of_odd hq)
  exact ⟨quiet_iff.2 hquiet, hout⟩

end Sys2Proof.Proofs
end

section
/-!
The echo law (44_effects_bus.md R187). The delay line is a ring: the cell `d` ticks back holds what was written `d`
ticks ago, as long as `d` is no more than its length. With a settled delay time the output of a tick is therefore what
went in `D` ticks before, and each trip around the line multiplies it by the feedback.
-/

open Sys2Proof Sys2Proof.Machine Sys2Proof.Claims

namespace Sys2Proof.Proofs

/-! ### A ring that is written once a tick -/

/-- The cell one tick back is the one of the last tick (20_memory.md R61). -/
theorem ringIndex_succ_one (t n : Nat) : ringIndex (t + 1) 1 n = t % n := by
  have h : ((t + 1 : Nat) : Int) - (1 : Nat) = t := by omega
  rw [ringIndex, h]
  exact congrArg Int.toNat (Int.natCast_mod t n).symm

/-- As `t` goes on, a cell is one tick further back. -/
theorem ringIndex_succ_succ (t d n : Nat) : ringIndex (t + 1) (d + 1) n = ringIndex t d n := by
  have h : ((t + 1 : Nat) : Int) - (d + 1 : Nat) = t - d := by omega
  rw [ringIndex, ringIndex, h]

/-- A cell fewer ticks back than the ring is long is not the one the tick writes. -/
theorem ringIndex_ne_mod {t d n : Nat} (h0 : 0 < d) (h1 : d < n) : ringIndex t d n ≠ t % n := by
  intro h
  have hmod : (t : Int) - d ≡ t [ZMOD n] := by
    rw [Int.ModEq, ← ringIndex_eq_emod t d (by omega), h, Int.natCast_mod]
  have hdvd : (n : Int) ∣ d := by simpa using hmod.dvd
  have hle : (n : Int) ≤ d := Int.le_of_dvd (by omega) hdvd
  omega

/-- After `n` ticks the cell `d` ticks back holds what was written `d` ticks ago, and 0 where nothing was. -/
def RingHolds (m : SampleMem) (len t : Nat) (written : Nat → Rat) (n : Nat) : Prop :=
  ∀ d, 0 < d → d ≤ len → memRead m (ringIndex t d len) = if d ≤ n then written (n - d) else 0

theorem ringHolds_zero {m : SampleMem} (h : ∀ a, memRead m a = 0) (len t : Nat) (written : Nat → Rat) :
    RingHolds m len t written 0 := fun d hd _ => by rw [h, if_neg (by omega)]

theorem RingHolds.write {m : SampleMem} {len t n : Nat} {written : Nat → Rat} (h : RingHolds m len t written n)
    (hwf : memWf m) : RingHolds (memWrite m (t % len) (written n)) len (t + 1) written (n + 1) := by
  intro d hd hlen
  obtain ⟨e, rfl⟩ : ∃ e, d = e + 1 := ⟨d - 1, by omega⟩
  cases e with
  | zero => rw [ringIndex_succ_one, memRead_memWrite_same _ _ hwf, if_pos (by omega), Nat.add_sub_cancel]
  | succ e =>
    rw [ringIndex_succ_succ, memRead_memWrite_ne _ _ (ringIndex_ne_mod (by omega) (by omega)),
      h (e + 1) (by omega) (by omega), Nat.add_sub_add_right]
    exact if_congr (by omega) rfl rfl

/-! ### Runs of ticks -/

theorem ticksOn_append (cfg : Config) (as bs : List (Triple Rat)) (s : State) :
    ticksOn cfg (as ++ bs) s = ticksOn cfg bs (ticksOn cfg as s) := by
  induction as generalizing s with
  | nil => rfl
  | cons a as ih => exact ih (tickEvent cfg a s)

theorem ticksOn_take_succ (cfg : Config) {srcs : List (Triple Rat)} {n : Nat} (h : n < srcs.length) (s : State) :
    ticksOn cfg (srcs.take (n + 1)) s = tickEvent cfg srcs[n] (ticksOn cfg (srcs.take n) s) := by
  rw [List.take_succ_eq_append_getElem h, ticksOn_append]
  rfl

/-! ### The delay line while time and feedback are settled -/

section

variable {cfg : Config} {c : Chan} {s u : State} {written : Nat → Rat} {n : Nat}

/-- `n` ticks after `s`, with delay time and feedback as in `s` and the samples `written` in the line of channel `c`. -/
structure LineAfter (cfg : Config) (c : Chan) (s : State) (written : Nat → Rat) (n : Nat) (u : State) : Prop where
  sounding : Sounding u
  dtime : u.fx.dtime = s.fx.dtime
  dfb : u.fx.dfb = s.fx.dfb
  wf : memWf (u.dl.get c)
  ring : RingHolds (u.dl.get c) (dlLen cfg) u.t written n

/-- A tick writes one more sample; settled smoothers stay. -/
theorem LineAfter.tickEvent (h : LineAfter cfg c s written n u) (hdtime : s.fx.dtime.cur = s.fx.dtime.tgt)
    (hdfb : s.fx.dfb.cur = s.fx.dfb.tgt) {src : Triple Rat} (hin : cfg.q (dinSig cfg src u c) = written n) :
    LineAfter cfg c s written (n + 1) (tickEvent cfg src u) where
  sounding := h.sounding.tickEvent cfg src
  dtime := by
    rw [h.sounding.fx_tickEvent]
    exact (congrArg advance h.dtime).trans (advance_of_settled hdtime)
  dfb := by
    rw [h.sounding.fx_tickEvent]
    exact (congrArg advance h.dfb).trans (advance_of_settled hdfb)
  wf := by
    rw [tickEvent_dl cfg src h.sounding.run h.sounding.fxv]
    exact memWf_memWrite _ _ h.wf
  ring := by
    rw [tickEvent_dl cfg src h.sounding.run h.sounding.fxv, h.sounding.tickEvent_eq, delayNext, hin]
    exact h.ring.write h.wf

/-- What comes out is what went in `D` ticks before (44_effects_bus.md R185). -/
theorem LineAfter.doutSig_eq (h : LineAfter cfg c s written n u) (hD : delaySamples cfg s ≤ dlLen cfg) :
    doutSig cfg u c = if delaySamples cfg s ≤ n then written (n - delaySamples cfg s) else 0 := by
  have heq : delaySamples cfg u = delaySamples cfg s := by rw [delaySamples, delaySamples, h.dtime]
  rw [doutSig, heq]
  exact h.ring _ (le_max_left 1 _) hD

/-- Any number of ticks writes its samples one after the other, by induction on their number. -/
theorem lineAfter_ticks {srcs : List (Triple Rat)} (h : LineAfter cfg c s written 0 s)
    (hdtime : s.fx.dtime.cur = s.fx.dtime.tgt) (hdfb : s.fx.dfb.cur = s.fx.dfb.tgt)
    (hin : ∀ n (hn : n < srcs.length), cfg.q (foutSig cfg srcs[n] (ticksOn cfg (srcs.take n) s) c +
      s.fx.dfb.cur * doutSig cfg (ticksOn cfg (srcs.take n) s) c) = written n)
    (n : Nat) (hn : n ≤ srcs.length) : LineAfter cfg c s written n (ticksOn cfg (srcs.take n) s) := by
  induction n with
  | zero => exact h
  | succ n ih =>
    have hprev := ih (by omega)
    rw [ticksOn_take_succ cfg hn]
    refine hprev.tickEvent hdtime hdfb ?_
    rw [dinSig, hprev.dfb]
    exact hin n hn

end

/-! ### The recurrence -/

section

variable {out : Nat → Rat} {D t1 len : Nat} {f : Rat}

/-- A signal that is, from time `D` on, an impulse at `t1` and `f` times itself, `D` ticks late. -/
def Echoes (out : Nat → Rat) (D t1 len : Nat) (f : Rat) : Prop :=
  ∀ n, n ≤ len → out n = if D ≤ n then (if n - D = t1 then 1 else 0) + f * out (n - D) else 0

/-- Off the echoes there is nothing, by strong induction on the time. -/
theorem Echoes.eq_zero (h : Echoes out D t1 len f) (hD : 0 < D) (n : Nat) (hn : n ≤ len)
    (hoff : ∀ j, n ≠ t1 + (j + 1) * D) : out n = 0 := by
  induction n using Nat.strong_induction_on with
  | h n ih =>
    rw [h n hn]
    split
    next hle =>
      have hfirst : n - D ≠ t1 := fun he => hoff 0 (by omega)
      have hprev : out (n - D) = 0 := ih (n - D) (by omega) (by omega) fun j hj => hoff (j + 1) (by
        rw [Nat.succ_mul]
        omega)
      rw [if_neg hfirst, hprev, zero_add, mul_zero]
    next => rfl

/-- Each echo is `f` times the one before, by induction on their number. -/
theorem Echoes.eq_pow (h : Echoes out D t1 len f) (hD : 0 < D) (j : Nat) (hj : t1 + (j + 1) * D ≤ len) :
    out (t1 + (j + 1) * D) = f ^ j := by
  induction j with
  | zero =>
    have hstart : out t1 = 0 := h.eq_zero hD t1 (by omega) fun j => by
      have hpos : 0 < (j + 1) * D := Nat.mul_pos j.succ_pos hD
      omega
    rw [h _ hj, if_pos (by omega), zero_add, one_mul, Nat.add_sub_cancel, if_pos rfl, hstart, mul_zero, add_zero,
      pow_zero]
  | succ j ih =>
    have hnext : t1 + (j + 1 + 1) * D = t1 + (j + 1) * D + D := by ring
    have hpos : 0 < (j + 1) * D := Nat.mul_pos j.succ_pos hD
    rw [hnext] at hj ⊢
    rw [h _ hj, if_pos (by omega), Nat.add_sub_cancel, if_neg (by omega), ih (by omega), zero_add, pow_succ']

end

/-- What tick `k` writes, when the filter output is 1 in tick `t1` and 0 in the others (44_effects_bus.md R186). -/
def impulseWritten (cfg : Config) (c : Chan) (t1 : Nat) (f : Rat) (after : Nat → State) (k : Nat) : Rat :=
  (if k = t1 then 1 else 0) + f * doutSig cfg (after k) c

/-- Settles O52: the line after `n` ticks holds the impulse plus the fed-back output, so its output is the recurrence of
the echoes. -/
theorem echoLaw : Obligations.EchoLaw := by
  intro cfg s srcs c t1 hq hr hx hwf hempty hdtime hdfb D after hlen hfout
  have hD : 0 < D := le_max_left 1 _
  have hline : ∀ n, n ≤ srcs.length →
      LineAfter cfg c s (impulseWritten cfg c t1 s.fx.dfb.cur after) n (after n) :=
    lineAfter_ticks ⟨⟨hr, hx⟩, rfl, rfl, hwf, ringHolds_zero hempty _ _ _⟩ hdtime hdfb fun n hn => by
      rw [hq, hfout n hn, impulseWritten]
  have hechoes : Echoes (fun n => doutSig cfg (after n) c) D t1 srcs.length s.fx.dfb.cur := fun n hn =>
    (hline n hn).doutSig_eq hlen.le
  exact ⟨hechoes.eq_pow hD, hechoes.eq_zero hD⟩

end Sys2Proof.Proofs
end

section
/-!
The reverb's impulse response (45_curve_generators.md R205 to R208). An APPLY synthesises it where the clamped decay is
another one than before. Its samples are draws of at most 1 under a falling square, so their sum bounds what the
convolver makes of a history.
-/

open Sys2Proof Sys2Proof.Machine Sys2Proof.Claims

namespace Sys2Proof.Proofs

/-! ### The synthesis in an APPLY -/

/-- The clamped decay in the statement's words. -/
theorem decayMs_eq (cfg : Config) (r : Half) : decayMs cfg r = min (max r.toNat cfg.revMinMs) cfg.revMaxMs := by
  have h := cfg.revMinMs_le
  unfold decayMs clampNat ms
  split_ifs <;> omega

theorem memRead_impulseChannel (cfg : Config) (session syn : Nat) (c : Chan) {L i : Nat} (h : i < L) :
    memRead (impulseChannel cfg session syn c L) i = cfg.q (cfg.urand session syn c i * impulseEnvelope L i) :=
  (memRead_memTable _ _ i).trans (if_pos h)

/-- A response made for the staged decay stays. -/
theorem reconcile_impulse_kept {cfg : Config} {s : State} (h : s.fx.irMs = some (decayMs cfg s.patch.decay)) :
    (reconcile cfg s).ir = s.ir ∧ (reconcile cfg s).fx.irLen = s.fx.irLen ∧
      (reconcile cfg s).fx.syn = s.fx.syn ∧ (reconcile cfg s).fx.irMs = s.fx.irMs := by
  rcases reconcile_cases cfg s with ⟨-, e⟩ | ⟨hne, -⟩
  · rw [e]; exact ⟨rfl, rfl, rfl, rfl⟩
  · exact absurd h hne

/-- Where there is none for the staged decay, a new one is synthesised. -/
theorem reconcile_impulse_new {cfg : Config} {s : State} (h : s.fx.irMs ≠ some (decayMs cfg s.patch.decay)) :
    (reconcile cfg s).fx.irMs = some (decayMs cfg s.patch.decay) ∧
      (reconcile cfg s).fx.irLen = impulseLen cfg (decayMs cfg s.patch.decay) ∧
      (reconcile cfg s).fx.syn = s.fx.syn + 1 ∧
      ∀ c, (reconcile cfg s).ir.get c =
        impulseChannel cfg s.session (s.fx.syn + 1) c (impulseLen cfg (decayMs cfg s.patch.decay)) := by
  rcases reconcile_cases cfg s with ⟨heq, -⟩ | ⟨-, e⟩
  · exact absurd heq h
  · rw [e]; exact ⟨rfl, rfl, rfl, Stereo.get_each _⟩

/-- Settles O21: the response is kept or made anew, and the clamped decay keeps its length within the history. -/
theorem applyImpulse : Obligations.ApplyImpulse := by
  intro s t hr h cfg dms L
  obtain rfl := exec_apply_started h hr
  have hd : decayMs cfg s.patch.decay = dms := decayMs_eq cfg _
  refine ⟨⟨le_max_left _ _, impulseLen_le cfg (min_le_right _ _)⟩, fun hkept => ?_, fun hnew => ?_⟩
  · exact reconcile_impulse_kept (hkept.trans (congrArg some hd.symm))
  · rw [← hd] at hnew
    obtain ⟨hms, hlen, hsyn, hir⟩ := reconcile_impulse_new hnew
    rw [hd] at hms hlen hir
    exact ⟨hms, hlen, hsyn, fun c i hi => by rw [hir c]; exact memRead_impulseChannel _ _ _ _ hi⟩

/-! ### The envelope and its bound -/

/-- The sum of the squares along a line that starts at 1 and falls by `d`, by induction on their number. -/
theorem sum_sq_one_sub_mul (d : Rat) (n : Nat) : ∑ i ∈ Finset.range n, (1 - (i : Rat) * d) ^ 2 =
    n - d * (n * (n - 1)) + d ^ 2 * (n * (n - 1) * (2 * n - 1) / 6) := by
  induction n with
  | zero => simp
  | succ n ih =>
    rw [Finset.sum_range_succ, ih]
    push_cast
    ring

theorem sum_impulseEnvelope {L : Nat} (h : 1 ≤ L) :
    ∑ i ∈ Finset.range L, impulseEnvelope L i = ((L : Rat) + 1) * (2 * L + 1) / (6 * L) := by
  have hL : (L : Rat) ≠ 0 := Nat.cast_ne_zero.2 (by omega)
  calc ∑ i ∈ Finset.range L, impulseEnvelope L i
      = ∑ i ∈ Finset.range L, (1 - (i : Rat) * (1 / L)) ^ 2 := by simp only [impulseEnvelope, mul_one_div]
    _ = ((L : Rat) + 1) * (2 * L + 1) / (6 * L) := by
      rw [sum_sq_one_sub_mul]
      field_simp
      ring

theorem impulseEnvelope_nonneg (L i : Nat) : 0 ≤ impulseEnvelope L i := sq_nonneg _

/-- Up to the end of the response the base is positive and falls, and so does its square. -/
theorem impulseEnvelope_succ_lt {L i : Nat} (h : i + 1 < L) : impulseEnvelope L (i + 1) < impulseEnvelope L i := by
  have hL : (0 : Rat) < L := Nat.cast_pos.2 (by omega)
  have hend : ((i + 1 : Nat) : Rat) / L ≤ 1 := (div_le_one hL).2 (Nat.cast_le.2 h.le)
  have hstep : (i : Rat) / L < ((i + 1 : Nat) : Rat) / L := div_lt_div_of_pos_right (Nat.cast_lt.2 i.lt_succ_self) hL
  exact pow_lt_pow_left₀ (by linarith) (by linarith) two_ne_zero

theorem abs_urand_le (cfg : Config) (session syn : Nat) (c : Chan) (i : Nat) : |cfg.urand session syn c i| ≤ 1 :=
  abs_le.2 ⟨cfg.urand_ge _ _ _ _, (cfg.urand_lt _ _ _ _).le⟩

/-- A draw is at most 1, so the envelope bounds the sample (45_curve_generators.md R208). -/
theorem abs_impulseChannel_le {cfg : Config} (hq : ∀ x, cfg.q x = x) (session syn : Nat) (c : Chan) {L i : Nat}
    (h : i < L) : |memRead (impulseChannel cfg session syn c L) i| ≤ impulseEnvelope L i := by
  rw [memRead_impulseChannel cfg session syn c h, hq, abs_mul, abs_of_nonneg (impulseEnvelope_nonneg L i)]
  exact mul_le_of_le_one_left (impulseEnvelope_nonneg L i) (abs_urand_le cfg session syn c i)

/-- A bound of the weights and a bound of the values bound the weighted sum. -/
theorem abs_sum_mul_le {w e h : Nat → Rat} {B : Rat} {n : Nat} (hw : ∀ i, i < n → |w i| ≤ e i)
    (hh : ∀ i, |h i| ≤ B) :
    |∑ i ∈ Finset.range n, w i * h i| ≤ (∑ i ∈ Finset.range n, e i) * B := by
  rw [Finset.sum_mul]
  refine (Finset.abs_sum_le_sum_abs _ _).trans (Finset.sum_le_sum fun i hi => ?_)
  have hi' := hw i (Finset.mem_range.1 hi)
  rw [abs_mul]
  exact mul_le_mul hi' (hh i) (abs_nonneg _) ((abs_nonneg _).trans hi')

/-- Settles O54: the envelope bounds each sample, and its sum bounds the convolution. -/
theorem impulseBound : Obligations.ImpulseBound := by
  intro cfg hq session syn c L hL
  have hbound : ∀ i, i < L → |memRead (impulseChannel cfg session syn c L) i| ≤ impulseEnvelope L i :=
    fun _ => abs_impulseChannel_le hq session syn c
  exact ⟨hbound, fun _ => impulseEnvelope_succ_lt, sum_impulseEnvelope hL, fun _ _ hB =>
    sum_impulseEnvelope hL ▸ abs_sum_mul_le hbound hB⟩

end Sys2Proof.Proofs
end

section
/-!
The waveshaper's curve and table (45_curve_generators.md R209 to R212). For `k > 0` the curve is a quotient with a
positive denominator, so its shape is a matter of cross products: its rise is that of `x * |y| ≤ y * |x|` for `x < y`,
its growing steepness that of `p - 3 * x > 0`.
-/

open Sys2Proof Sys2Proof.Machine Sys2Proof.Claims

namespace Sys2Proof.Proofs

/-! ### The curve -/

theorem curve_zero_left (cfg : Config) (x : Rat) : curve cfg 0 x = x := if_pos rfl

theorem curve_of_ne_zero (cfg : Config) {k : Rat} (h : k ≠ 0) (x : Rat) :
    curve cfg k x = (3 + k) * x * (cfg.piQ / 9) / (cfg.piQ + k * |x|) := if_neg h

theorem curve_den_pos (cfg : Config) {k : Rat} (h : 0 < k) (x : Rat) : 0 < cfg.piQ + k * |x| :=
  add_pos_of_pos_of_nonneg cfg.piQ_pos (mul_nonneg h.le (abs_nonneg x))

/-- Equality from 0 on; below 0 the difference of the two sides is `x * (|y| + y)`. -/
theorem mul_abs_le_mul_abs {x y : Rat} (h : x < y) : x * |y| ≤ y * |x| := by
  rcases le_or_gt 0 x with hx | hx
  · rw [abs_of_nonneg hx, abs_of_pos (hx.trans_lt h), mul_comm]
  · have hsum : 0 ≤ |y| + y := by linarith [neg_abs_le y]
    rw [abs_of_neg hx]
    linarith [mul_nonpos_of_nonpos_of_nonneg hx.le hsum]

theorem curve_strictMono (cfg : Config) {k x y : Rat} (hk : 0 < k) (h : x < y) : curve cfg k x < curve cfg k y := by
  have hp := cfg.piQ_pos
  have hcross : x * (cfg.piQ + k * |y|) < y * (cfg.piQ + k * |x|) := by
    have hfixed : cfg.piQ * x < cfg.piQ * y := mul_lt_mul_of_pos_left h hp
    have hvar : k * (x * |y|) ≤ k * (y * |x|) := mul_le_mul_of_nonneg_left (mul_abs_le_mul_abs h) hk.le
    linarith
  have hscale : 0 < (3 + k) * (cfg.piQ / 9) := by positivity
  rw [curve_of_ne_zero cfg hk.ne', curve_of_ne_zero cfg hk.ne',
    div_lt_div_iff₀ (curve_den_pos cfg hk x) (curve_den_pos cfg hk y)]
  linarith [mul_lt_mul_of_pos_left hcross hscale]

theorem curve_one (cfg : Config) {k : Rat} (hk : 0 < k) :
    curve cfg k 1 = (3 + k) * cfg.piQ / (9 * (cfg.piQ + k)) := by
  rw [curve_of_ne_zero cfg hk.ne', abs_one, mul_one, mul_one, mul_div_assoc', div_div]

theorem curve_one_lt_one (cfg : Config) {k : Rat} (hk : 0 < k) (hp9 : cfg.piQ ≤ 9) : curve cfg k 1 < 1 := by
  have hp := cfg.piQ_pos
  have hprod : k * cfg.piQ ≤ k * 9 := mul_le_mul_of_nonneg_left hp9 hk.le
  rw [curve_one cfg hk, div_lt_one (by linarith)]
  linarith

/-- The quotient of the curve is `(3 + k) / (p + k * x)` up to a factor without `k`, which grows with `k` where
`3 * x < p` (45_curve_generators.md R212). -/
theorem curve_div_lt (cfg : Config) {k l x : Rat} (hk : 0 < k) (hkl : k < l) (hx : 0 < x) (hx3 : 3 * x < cfg.piQ) :
    curve cfg k x / x < curve cfg l x / x := by
  have hp := cfg.piQ_pos
  have hl := hk.trans hkl
  have hcross : (3 + k) * (cfg.piQ + l * |x|) < (3 + l) * (cfg.piQ + k * |x|) := by
    have hgrow : 0 < (l - k) * (cfg.piQ - 3 * x) := mul_pos (by linarith) (by linarith)
    rw [abs_of_pos hx]
    linarith
  have hscale : 0 < x * (cfg.piQ / 9) := by positivity
  rw [div_lt_div_iff_of_pos_right hx, curve_of_ne_zero cfg hk.ne', curve_of_ne_zero cfg hl.ne',
    div_lt_div_iff₀ (curve_den_pos cfg hk x) (curve_den_pos cfg hl x)]
  linarith [mul_lt_mul_of_pos_left hcross hscale]

/-- Settles O55: the shape is read off the cross products of the quotients. -/
theorem curveShape : Obligations.CurveShape := fun cfg =>
  ⟨curve_zero_left cfg, fun k hk => ⟨curve_neg cfg k, map_zero_of_odd (curve_neg cfg k),
    fun _ _ => curve_strictMono cfg hk, curve_one cfg hk, curve_one_lt_one cfg hk⟩, fun _ _ _ => curve_div_lt cfg⟩

/-! ### The table in an APPLY -/

theorem driveIntensity_eq (cfg : Config) (r : Half) :
    driveIntensity cfg r = within (r.toNat / 1000) 0 1 * cfg.wsKMax := by
  rw [driveIntensity, clamp_eq_within zero_le_one, milli]

/-- A register that is not 0 is clamped to a positive number. -/
theorem driveIntensity_eq_zero_iff (cfg : Config) (r : Half) : driveIntensity cfg r = 0 ↔ r = 0 := by
  rw [driveIntensity_eq, mul_eq_zero_iff_right cfg.wsKMax_pos.ne']
  constructor
  · intro h
    by_contra hr
    have hpos : (0 : Rat) < (r.toNat : Rat) / 1000 :=
      div_pos (Nat.cast_pos.2 (Nat.pos_of_ne_zero fun h0 => hr (BitVec.eq_of_toNat_eq h0))) (by norm_num)
    exact (lt_min (lt_max_of_lt_left hpos) one_pos).ne' h
  · rintro rfl
    norm_num [within]

theorem memRead_driveTable (cfg : Config) (k : Rat) {i : Nat} (h : i < cfg.wsN) :
    memRead (driveTable cfg k) i = cfg.q (curve cfg k (gridPoint cfg i)) :=
  (memRead_memTable _ _ i).trans (if_pos h)

theorem reconcile_k (cfg : Config) (s : State) : (reconcile cfg s).fx.k = driveIntensity cfg s.patch.drive := by
  rcases reconcile_cases cfg s with ⟨-, e⟩ | ⟨-, e⟩
  · rw [e]; rfl
  · rw [e]; rfl

/-- Settles O22: the table holds the curve of the intensity, which is 0 for the register 0 alone. -/
theorem applyDriveTable : Obligations.ApplyDriveTable := by
  intro s t hr h cfg x
  obtain rfl := exec_apply_started h hr
  obtain ⟨-, -, -, hlut⟩ := reconcile_signals cfg s
  have hzero := driveIntensity_eq_zero_iff cfg s.patch.drive
  rw [reconcile_k, hlut]
  refine ⟨driveIntensity_eq cfg _, hzero, fun i hi => ⟨fun hd => ?_, fun hd => ?_⟩⟩
  · rw [memRead_driveTable cfg _ hi, hzero.2 hd, curve_zero_left]
    rfl
  · rw [memRead_driveTable cfg _ hi, curve_of_ne_zero cfg (mt hzero.1 hd)]
    rfl

end Sys2Proof.Proofs
end

section
/-!
Recordings (46_capture_sink.md R222 to R225). CAPSTART empties the buffer, CAPSTOP delivers it, and in between every
tick step appends the frame it shows and nothing else writes it; so what is delivered is the frames of the tick steps.
-/

open Sys2Proof Sys2Proof.Machine Sys2Proof.Claims

namespace Sys2Proof.Proofs

/-! ### `CAPSTART` and `CAPSTOP` -/

/-- A CAPSTART that acts (46_capture_sink.md R222). -/
theorem exec_capstart_acts {s : State} (hr : s.run ≠ .uninit) (hc : s.cap = .idle) :
    exec .capstart s = .next (okAnswer 0 { s with tapCreated := true, recBuf := [], cap := .recording }) :=
  calc exec .capstart s
      = .next (beginCapture s) := congrArg Host.Outcome.next (whenStarted_started _ hr)
    _ = _ := by rw [beginCapture_idle hc, respond_ok]

/-- A CAPSTART before the first START, or while Recording, is only answered (46_capture_sink.md R222). -/
theorem exec_capstart_answers {s : State} (h : s.run = .uninit ∨ s.cap = .recording) :
    exec .capstart s = .next (okAnswer 0 s) := by
  by_cases hr : s.run = .uninit
  · exact exec_waitsForStart_uninit rfl hr
  · calc exec .capstart s
        = .next (beginCapture s) := congrArg Host.Outcome.next (whenStarted_started _ hr)
      _ = _ := by rw [beginCapture_recording (h.resolve_left hr), respond_ok]

theorem exec_capstop_recording {s : State} (h : s.cap = .recording) :
    exec .capstop s = .next (okAnswer 0 { s with
      delivered := s.delivered ++ [s.recBuf], recBuf := [], cap := .idle
      ports := { s.ports with capLast := true } }) := by
  rw [← respond_ok]
  exact execCapstop_recording h

/-- Settles O29: CAPSTART acts or is only answered, and of its row's words one alone is legal. -/
theorem capstartRule : Obligations.CapstartRule := fun s =>
  ⟨exec_capstart_answers, exec_capstart_acts, execWord_ok (by decide) s,
    fun _ hlow => execWord_plainRow_illegal (i := .capstart) (by decide) hlow s⟩

/-- Settles O30: CAPSTOP in the two capture states, and of its row's words one alone is legal. -/
theorem capstopRule : Obligations.CapstopRule := fun s =>
  ⟨execCapstop_idle, exec_capstop_recording, execWord_ok (by decide) s,
    fun _ hlow => execWord_plainRow_illegal (i := .capstop) (by decide) hlow s⟩

/-! ### While Recording -/

/-- From `s` to `t` the frames `fs` are appended to the buffer, and nothing is delivered. -/
structure Records (fs : List Frame) (s t : State) : Prop where
  cap : t.cap = s.cap
  recBuf : t.recBuf = s.recBuf ++ fs
  delivered : t.delivered = s.delivered

theorem records_nil {s t : State} (hcap : t.cap = s.cap) (hrec : t.recBuf = s.recBuf)
    (hdel : t.delivered = s.delivered) : Records [] s t :=
  ⟨hcap, hrec.trans (List.append_nil _).symm, hdel⟩

theorem Records.trans {fs gs : List Frame} {s t u : State} (h : Records fs s t) (h' : Records gs t u) :
    Records (fs ++ gs) s u where
  cap := h'.cap.trans h.cap
  recBuf := by rw [h'.recBuf, h.recBuf, List.append_assoc]
  delivered := h'.delivered.trans h.delivered

theorem respond_records (c : RespCode) (d : Half) (s : State) : Records [] s (respond c d s) :=
  records_nil rfl rfl rfl

theorem raiseError_records (e : BlockError) (s : State) : Records [] s (raiseError e s) := by
  cases e with
  | illegal | capture => exact records_nil rfl rfl rfl

theorem whenStarted_records {f : State → State} {s : State} (h : Records [] s (f s)) :
    Records [] s (whenStarted f s) := by
  by_cases hr : s.run = .uninit
  · rw [whenStarted_uninit f hr]; exact respond_records _ _ s
  · rw [whenStarted_started f hr]; exact h

theorem reconcile_records (cfg : Config) (s : State) : Records [] s (reconcile cfg s) := by
  obtain ⟨fx, ir, lut, -, e⟩ := reconcile_frame cfg s
  rw [e]
  exact records_nil rfl rfl rfl

theorem trigger_records (f : Adsr → Envelope → Nat → Envelope) (v : VoiceId) (s : State) :
    Records [] s (trigger f v s) := by
  cases hp : (s.voices.get v).present with
  | false => rw [trigger_absent hp]; exact respond_records _ _ s
  | true => rw [trigger_present hp]; exact records_nil rfl rfl rfl

theorem stopEngine_records (s : State) : Records [] s (stopEngine s) := by
  by_cases hr : s.run = .running
  · rw [stopEngine_running hr]; exact records_nil rfl rfl rfl
  · rw [stopEngine_stopped hr]; exact records_nil rfl rfl rfl

/-- No instruction but CAPSTOP touches a recording in progress; a second CAPSTART does not restart it
(46_capture_sink.md R222). -/
theorem exec_records {i : Instr} (hi : i ≠ .capstop) {s t : State} (hc : s.cap = .recording)
    (h : exec i s = .next t) : Records [] s t := by
  cases i with
  | capstop => exact absurd rfl hi
  | capstart => cases (exec_capstart_answers (.inr hc)).symm.trans h; exact records_nil rfl rfl rfl
  | wrp r x =>
    rcases execWrp_cases h with ⟨-, rfl⟩ | rfl
    · exact records_nil rfl rfl rfl
    · exact raiseError_records _ s
  | nop | rdp r | rds r => cases h; exact respond_records _ _ s
  | apply => cases h; exact whenStarted_records (reconcile_records _ s)
  | attack v | release v => cases h; exact whenStarted_records (trigger_records _ v s)
  | start => cases h; rw [startEngine_eq]; exact records_nil rfl rfl rfl
  | stop => cases h; exact (stopEngine_records s).trans (respond_records _ _ _)

theorem decode_ne_capstop {w : Word} (h : notCapstop (.cmd w) = true) : decode w ≠ .ok .capstop := fun hd =>
  bne_iff_ne.1 h (encode_of_decode hd).1.symm

theorem actRun_cmd_records {w : Word} (hw : notCapstop (.cmd w) = true) {s : State} (hc : s.cap = .recording) :
    Records [] s ((Act.cmd w).run s) := by
  cases hd : decode w with
  | error x => rw [actRun_of_execWord (execWord_error hd s)]; exact raiseError_records _ s
  | ok i =>
    obtain ⟨t, ht⟩ := execWord_next w s
    rw [actRun_of_execWord ht]
    exact exec_records (fun hi => decode_ne_capstop hw (hi ▸ hd)) hc ((execWord_ok hd s).symm.trans ht)

/-- A tick step appends the frame it shows; a pulse while not RUNNING appends nothing (46_capture_sink.md R224). -/
theorem tickEvent_records (cfg : Config) (src : Triple Rat) {s : State} (hc : s.cap = .recording) :
    Records (if s.run = .running then [(tickEvent cfg src s).ports.out] else []) s (tickEvent cfg src s) := by
  have happend (out : Frame) : recordFrame s.cap s.recBuf out = s.recBuf ++ [out] := by rw [hc, recordFrame]
  by_cases hr : s.run = .running
  · rw [if_pos hr]
    cases hx : s.fx.fxv with
    | false => rw [tickEvent_silent cfg src hr hx]; exact ⟨rfl, happend _, rfl⟩
    | true => rw [tickEvent_active cfg src hr hx]; exact ⟨rfl, happend _, rfl⟩
  · rw [if_neg hr, tickEvent_stopped cfg src hr]
    exact records_nil rfl rfl rfl

/-- The whole trace, item by item: the capture stays Recording, so each item meets the next one's premise. -/
theorem playState_records {acts : List Act} (hacts : ∀ a ∈ acts, notCapstop a = true) {s : State}
    (hc : s.cap = .recording) : Records (playFrames acts s) s (playState acts s) := by
  induction acts generalizing s with
  | nil => exact records_nil rfl rfl rfl
  | cons a acts ih =>
    have hrest {fs : List Frame} (h : Records fs s (a.run s)) :
        Records (fs ++ playFrames acts (a.run s)) s (playState (a :: acts) s) :=
      h.trans (ih (fun b hb => hacts b (.tail _ hb)) (h.cap.trans hc))
    cases a with
    | cmd w => exact hrest (actRun_cmd_records (hacts _ (.head _)) hc)
    | tick src => exact hrest (tickEvent_records Config.build src hc)

/-- Settles O31: CAPSTART leaves an empty buffer, the trace appends its frames to it, and CAPSTOP delivers it. -/
theorem recordingHoldsTickFrames : Obligations.RecordingHoldsTickFrames := by
  intro s t u acts hr hc ht hacts hu
  cases (exec_capstart_acts hr hc).symm.trans ht
  obtain ⟨hcap, hrec, hdel⟩ := playState_records hacts (s := okAnswer 0 { s with
    tapCreated := true, recBuf := [], cap := .recording }) rfl
  cases (exec_capstop_recording hcap).symm.trans hu
  exact congrArg₂ (fun d r => d ++ [r]) hdel hrec

end Sys2Proof.Proofs
end

section
/-!
The capture is not heard (46_capture_sink.md R227). A capture command leaves its trace in the capture state and its
buffer, on the capture port, in what is delivered, in the error flags and in the responses; no other command and no tick
carries any of these to the rest of the state.
-/

open Sys2Proof Sys2Proof.Machine Sys2Proof.Claims

namespace Sys2Proof.Proofs

/-- The state with everything a capture command can be seen in blanked out. -/
def uncaptured (s : State) : State :=
  { s with
    cap := .idle, tapCreated := false, recBuf := [], delivered := []
    errIll := false, errCap := false, rq := []
    ports := { s.ports with capFrame := none, capLast := false } }

theorem uncaptured_uncaptured (s : State) : uncaptured (uncaptured s) = uncaptured s := rfl

theorem uncaptured_raiseError (e : BlockError) (s : State) : uncaptured (raiseError e s) = uncaptured s := by
  cases e with
  | illegal | capture => rfl

/-! ### The capture commands -/

theorem uncaptured_exec_capture {i : Instr} (hi : i = .capstart ∨ i = .capstop) {s t : State}
    (h : exec i s = .next t) : uncaptured t = uncaptured s := by
  rcases hi with rfl | rfl
  · by_cases hr : s.run = .uninit
    · cases (exec_capstart_answers (.inl hr)).symm.trans h
      rfl
    · cases hc : s.cap with
      | idle => cases (exec_capstart_acts hr hc).symm.trans h; rfl
      | recording => cases (exec_capstart_answers (.inr hc)).symm.trans h; rfl
  · rcases execCapstop_cases h with rfl | rfl
    · exact uncaptured_raiseError _ s
    · rfl

/-- A word of opcode 9 or 10 is a capture command or illegal (30_encoding.md R84). -/
theorem decode_eq_ok_of_capture {w : Word} {i : Instr} (hw : notCapture (.cmd w) = false) (h : decode w = .ok i) :
    i = .capstart ∨ i = .capstop := by
  rcases Bool.and_eq_false_iff.1 hw with hop | hop
  · rw [decode_plainRow (i := .capstart) (by decide) (bne_eq_false_iff_eq.1 hop)] at h
    exact .inl (decodeZ_eq_ok h).1.symm
  · rw [decode_plainRow (i := .capstop) (by decide) (bne_eq_false_iff_eq.1 hop)] at h
    exact .inr (decodeZ_eq_ok h).1.symm

theorem uncaptured_run_of_capture {a : Act} (ha : notCapture a = false) (s : State) :
    uncaptured (a.run s) = uncaptured s := by
  cases a with
  | tick src => exact nomatch ha
  | cmd w =>
    cases hd : decode w with
    | error x => rw [actRun_of_execWord (execWord_error hd s), uncaptured_raiseError]
    | ok i =>
      obtain ⟨t, ht⟩ := execWord_next w s
      rw [actRun_of_execWord ht]
      exact uncaptured_exec_capture (decode_eq_ok_of_capture ha hd) ((execWord_ok hd s).symm.trans ht)

/-! ### The other instructions -/

theorem uncaptured_whenStarted {f : State → State} {s : State}
    (h : uncaptured (f s) = uncaptured (f (uncaptured s))) :
    uncaptured (whenStarted f s) = uncaptured (whenStarted f (uncaptured s)) := by
  by_cases hr : s.run = .uninit
  · rw [whenStarted_uninit f hr, whenStarted_uninit f (s := uncaptured s) hr]
    rfl
  · rw [whenStarted_started f hr, whenStarted_started f (s := uncaptured s) hr]
    exact h

/-- APPLY reads the staged bank, the voices and the effects: whether a synthesis is due is not for the capture to
say. -/
theorem uncaptured_reconcile (cfg : Config) (s : State) :
    uncaptured (reconcile cfg s) = uncaptured (reconcile cfg (uncaptured s)) := by
  rcases reconcile_cases cfg s with ⟨hkept, e⟩ | ⟨hdue, e⟩
  · obtain ⟨-, e'⟩ := (reconcile_cases cfg (uncaptured s)).resolve_right fun ⟨hdue, _⟩ => hdue hkept
    rw [e, e']; rfl
  · obtain ⟨-, e'⟩ := (reconcile_cases cfg (uncaptured s)).resolve_left fun ⟨hkept, _⟩ => hdue hkept
    rw [e, e']; rfl

theorem uncaptured_trigger (f : Adsr → Envelope → Nat → Envelope) (v : VoiceId) (s : State) :
    uncaptured (trigger f v s) = uncaptured (trigger f v (uncaptured s)) := by
  cases hp : (s.voices.get v).present with
  | false => rw [trigger_absent hp, trigger_absent (s := uncaptured s) hp]; rfl
  | true => rw [trigger_present hp, trigger_present (s := uncaptured s) hp]; rfl

theorem uncaptured_stopEngine (s : State) : uncaptured (stopEngine s) = uncaptured (stopEngine (uncaptured s)) := by
  by_cases hr : s.run = .running
  · rw [stopEngine_running hr, stopEngine_running (s := uncaptured s) hr]; rfl
  · rw [stopEngine_stopped hr, stopEngine_stopped (s := uncaptured s) hr]; rfl

theorem uncaptured_execWrp {r : PatchReg} {x : Half} {s t u : State} (ht : execWrp r x s = .next t)
    (hu : execWrp r x (uncaptured s) = .next u) : uncaptured t = uncaptured u := by
  cases hx : immLegal r x with
  | true =>
    cases (execWrp_legal hx s).symm.trans ht
    cases (execWrp_legal hx (uncaptured s)).symm.trans hu
    rfl
  | false =>
    cases (execWrp_illegal hx s).symm.trans ht
    cases (execWrp_illegal hx (uncaptured s)).symm.trans hu
    rfl

/-- No instruction carries what a capture command writes to the rest of the state. -/
theorem uncaptured_exec {i : Instr} {s t u : State} (ht : exec i s = .next t)
    (hu : exec i (uncaptured s) = .next u) : uncaptured t = uncaptured u := by
  cases i with
  | capstart | capstop =>
    rw [uncaptured_exec_capture (by decide) ht, uncaptured_exec_capture (by decide) hu, uncaptured_uncaptured]
  | wrp r x => exact uncaptured_execWrp ht hu
  | nop | rdp r | rds r => cases ht; cases hu; rfl
  | apply => cases ht; cases hu; exact uncaptured_whenStarted (uncaptured_reconcile _ s)
  | attack v | release v => cases ht; cases hu; exact uncaptured_whenStarted (uncaptured_trigger _ v s)
  | start => cases ht; cases hu; rw [startEngine_eq, startEngine_eq]; rfl
  | stop => cases ht; cases hu; exact uncaptured_stopEngine s

/-! ### Ticks and traces -/

/-- The render agent writes the recording and the capture port, and computes nothing else from the capture state
(46_capture_sink.md R224, R227). -/
theorem uncaptured_tickEvent (cfg : Config) (src : Triple Rat) (s : State) :
    uncaptured (tickEvent cfg src s) = uncaptured (tickEvent cfg src (uncaptured s)) := by
  by_cases hr : s.run = .running
  · cases hx : s.fx.fxv with
    | false => rw [tickEvent_silent cfg src hr hx, tickEvent_silent cfg src (s := uncaptured s) hr hx]; rfl
    | true => rw [tickEvent_active cfg src hr hx, tickEvent_active cfg src (s := uncaptured s) hr hx]; rfl
  · rw [tickEvent_stopped cfg src hr, tickEvent_stopped cfg src (s := uncaptured s) hr]; rfl

theorem uncaptured_run (a : Act) (s : State) : uncaptured (a.run s) = uncaptured (a.run (uncaptured s)) := by
  cases a with
  | tick src => exact uncaptured_tickEvent Config.build src s
  | cmd w =>
    cases hd : decode w with
    | error x =>
      rw [actRun_of_execWord (execWord_error hd s), actRun_of_execWord (execWord_error hd (uncaptured s))]
      rfl
    | ok i =>
      obtain ⟨t, ht⟩ := execWord_next w s
      obtain ⟨u, hu⟩ := execWord_next w (uncaptured s)
      rw [actRun_of_execWord ht, actRun_of_execWord hu]
      exact uncaptured_exec ((execWord_ok hd s).symm.trans ht) ((execWord_ok hd _).symm.trans hu)

/-- Settles O32: a capture command changes only what `uncaptured` blanks out, and nothing else is computed from that. -/
theorem captureDoesNotChangeAudio : Obligations.CaptureDoesNotChangeAudio := fun _ _ =>
  playFrames_filter_of_erase (erase := uncaptured) (keep := notCapture) (fun _ => rfl) (fun _ => rfl) (fun _ => rfl)
    (fun a _ _ => uncaptured_run a) (fun _ _ => uncaptured_run_of_capture) rfl

end Sys2Proof.Proofs
end

section
/-!
An error answers and sets its flag, and that is all (60_exceptions.md R231, R232, R234). Whatever a command word does,
either the answer is OK or the whole effect is that of one of the block's two errors.
-/

open Sys2Proof Sys2Proof.Machine

namespace Sys2Proof.Proofs

/-- An instruction is answered OK, or its whole effect is an error: `WRP` and `CAPSTOP` alone can raise one
(60_exceptions.md R231, R232). -/
theorem exec_ok_or_raiseError {i : Instr} {s t : State} (h : exec i s = .next t) :
    (∃ d, Answered .ok d s t) ∨ ∃ e, t = raiseError e s := by
  cases i with
  | wrp r x =>
    rcases execWrp_cases h with ⟨-, rfl⟩ | rfl
    · exact .inl ⟨0, rfl, rfl⟩
    · exact .inr ⟨_, rfl⟩
  | capstop =>
    rcases execCapstop_cases h with rfl | rfl
    · exact .inr ⟨_, rfl⟩
    · exact .inl ⟨0, rfl, rfl⟩
  | nop | rdp r | rds r | apply | attack v | release v | start | stop | capstart => exact .inl ⟨_, exec_answered h⟩

theorem execWord_ok_or_raiseError {w : Word} {s t : State} (h : execWord w s = .next t) :
    (∃ d, Answered .ok d s t) ∨ ∃ e, t = raiseError e s := by
  cases hd : decode w with
  | ok i => exact exec_ok_or_raiseError ((execWord_ok hd s).symm.trans h)
  | error x =>
    cases (execWord_error hd s).symm.trans h
    exact .inr ⟨_, rfl⟩

/-- An error writes its flag and the response queue. -/
theorem raiseError_writes (e : BlockError) (s : State) : ∃ a b : Bool,
    raiseError e s = { s with errIll := a, errCap := b, rq := (raiseError e s).rq } ∧
      (a = true ∨ a = s.errIll) ∧ (b = true ∨ b = s.errCap) := by
  cases e with
  | illegal => exact ⟨true, s.errCap, rfl, .inl rfl, .inr rfl⟩
  | capture => exact ⟨s.errIll, true, rfl, .inr rfl, .inl rfl⟩

/-- Settles O38: an answer with another code than OK is that of an error, and an error writes only its flag. -/
theorem errorLeavesEngine : Obligations.ErrorLeavesEngine := by
  intro s t w r h hrq hcode
  rcases execWord_ok_or_raiseError h with ⟨d, ha⟩ | ⟨e, rfl⟩
  · obtain rfl : r = respWord .ok d := List.singleton_inj.1 (List.append_cancel_left (hrq.symm.trans ha.rq))
    exact absurd (respWord_code .ok d) hcode
  · rw [← hrq]
    exact raiseError_writes e s

end Sys2Proof.Proofs
end

section
/-!
Records with their unread fields blanked out (70_reset_and_hazards.md R251). A smoother that is not loaded is only ever
loaded afresh; APPLY sets up a voice or an effects record that was not there without reading it; a tick reads loaded
smoothers alone.
-/

namespace Sys2Proof.Machine

/-! ### Smoothers -/

namespace Smoother

variable {s u : Smoother}

theorem seen_of_valid (h : s.valid = true) : s.seen = s := if_pos h

theorem seen_of_not_valid (h : s.valid = false) : s.seen = Smoother.reset := if_neg (by simp [h])

@[simp] theorem seen_seen (s : Smoother) : s.seen.seen = s.seen := by
  cases h : s.valid with
  | false => rw [seen_of_not_valid h]; rfl
  | true => rw [seen_of_valid h, seen_of_valid h]

/-- A first load reads nothing of the smoother (41_voice_manager.md R129). -/
@[simp] theorem retarget_seen (s : Smoother) (x a : Rat) : retarget s.seen x a = retarget s x a := by
  cases h : s.valid with
  | false => rw [seen_of_not_valid h, retarget_of_not_valid x a h, retarget_of_not_valid x a rfl]
  | true => rw [seen_of_valid h]

theorem retarget_congr (h : s.seen = u.seen) (x a : Rat) : retarget s x a = retarget u x a := by
  rw [← retarget_seen s, h, retarget_seen]

/-- Only loaded smoothers advance (41_voice_manager.md R130). -/
theorem advance_seen (s : Smoother) : advance s.seen = (advance s).seen := by
  cases h : s.valid with
  | false =>
    rw [advance_of_not_valid h, seen_of_not_valid h]
    rfl
  | true => rw [seen_of_valid h, seen_of_valid ((advance_valid s).trans h)]

end Smoother

theorem SmootherIn.seen_eq {lo hi : Rat} {s : Smoother} (h : SmootherIn lo hi s) : s.seen = s :=
  Smoother.seen_of_valid h.loaded

theorem SmootherPos.seen_eq {s : Smoother} (h : SmootherPos s) : s.seen = s := Smoother.seen_of_valid h.loaded

/-! ### Voices -/

namespace Voice

variable {V : Voice}

theorem seen_of_present (h : V.present = true) : V.seen = { V with
    freq := V.freq.seen, det := V.det.seen, rate := V.rate.seen, lvl := V.lvl.seen, pan := V.pan.seen
    lforate := V.lforate.seen } :=
  if_pos h

theorem seen_of_absent (h : V.present = false) :
    V.seen = { Voice.reset with epoch := V.epoch, route := V.route, amt := V.amt } :=
  if_neg (by simp [h])

@[simp] theorem seen_present (V : Voice) : V.seen.present = V.present := by
  cases h : V.present with
  | false => rw [seen_of_absent h]; rfl
  | true => rw [seen_of_present h]; exact h

theorem seen_cat (h : V.present = true) : V.seen.cat = V.cat := by rw [seen_of_present h]

@[simp] theorem seen_seen (V : Voice) : V.seen.seen = V.seen := by
  cases h : V.present with
  | false => rw [seen_of_absent h]; rfl
  | true =>
    rw [seen_of_present (V.seen_present.trans h), seen_of_present h]
    simp only [Smoother.seen_seen]

@[simp] theorem seen_epoch (V : Voice) : V.seen.epoch = V.epoch := by
  unfold seen; split <;> rfl

@[simp] theorem seen_route (V : Voice) : V.seen.route = V.route := by
  unfold seen; split <;> rfl

end Voice

/-- In a voice as the invariant wants it, only the pitch smoothers of the other category are blanked out
(10_state.md R36). -/
theorem VoiceOk.seen_eq {t : Nat} {V : Voice} (h : VoiceOk t V) (hp : V.present = true) :
    V.seen = { V with freq := V.freq.seen, det := V.det.seen, rate := V.rate.seen } := by
  rw [Voice.seen_of_present hp, h.lvl.seen_eq, h.pan.seen_eq, h.lforate.seen_eq]

/-! ### APPLY on one voice -/

/-- Voices between creation or replacement and their targets that APPLY cannot tell apart: equal in all that it carries
over, smoothers as far as they are loaded. -/
structure SettledAlike (V W : Voice) : Prop where
  epoch : V.epoch = W.epoch
  en : V.en = W.en
  env : V.env = W.env
  lfoPh : V.lfoPh = W.lfoPh
  freq : V.freq.seen = W.freq.seen
  det : V.det.seen = W.det.seen
  rate : V.rate.seen = W.rate.seen
  lvl : V.lvl.seen = W.lvl.seen
  pan : V.pan.seen = W.pan.seen
  lforate : V.lforate.seen = W.lforate.seen

/-- Creation reads nothing of the voice, replacement and neither nothing that is blanked out
(41_voice_manager.md R122 to R124). -/
theorem settledVoice_seen (p : VoicePatch) (V : Voice) : SettledAlike (settledVoice p V.seen) (settledVoice p V) := by
  cases hp : V.present with
  | false =>
    rw [settledVoice_absent p V hp, settledVoice_absent p V.seen (V.seen_present.trans hp)]
    exact ⟨rfl, rfl, rfl, rfl, rfl, rfl, rfl, rfl, rfl, rfl⟩
  | true =>
    have hpSeen : V.seen.present = true := V.seen_present.trans hp
    have hcSeen : V.seen.cat = V.cat := Voice.seen_cat hp
    by_cases hc : V.cat = catOf (waveformOf p.waveform)
    · rw [settledVoice_keep p V hp hc, settledVoice_keep p _ hpSeen (hcSeen.trans hc), Voice.seen_of_present hp]
      exact ⟨rfl, rfl, rfl, rfl, Smoother.seen_seen _, Smoother.seen_seen _, Smoother.seen_seen _,
        Smoother.seen_seen _, Smoother.seen_seen _, Smoother.seen_seen _⟩
    · rw [settledVoice_replace p V hp hc, settledVoice_replace p _ hpSeen (hcSeen ▸ hc), Voice.seen_of_present hp]
      exact ⟨rfl, rfl, rfl, rfl, rfl, rfl, rfl, Smoother.seen_seen _, Smoother.seen_seen _, Smoother.seen_seen _⟩

section

variable {cfg : Config} {p : VoicePatch} {V W : Voice}

/-- The pitch smoothers of the category are retargeted, the others are carried over (41_voice_manager.md R125 to
R127). -/
theorem SettledAlike.applyVoice_pitch (h : SettledAlike (settledVoice p V) (settledVoice p W)) :
    (applyVoice cfg p V).freq.seen = (applyVoice cfg p W).freq.seen ∧
      (applyVoice cfg p V).det.seen = (applyVoice cfg p W).det.seen ∧
      (applyVoice cfg p V).rate.seen = (applyVoice cfg p W).rate.seen := by
  obtain ⟨-, -, -, -, -, -, -, -, -, -, htV, hnV⟩ := applyVoice_fields cfg p V
  obtain ⟨-, -, -, -, -, -, -, -, -, -, htW, hnW⟩ := applyVoice_fields cfg p W
  cases hc : catOf (waveformOf p.waveform) with
  | tonal =>
    obtain ⟨hfV, hdV, hrV⟩ := htV hc
    obtain ⟨hfW, hdW, hrW⟩ := htW hc
    rw [hfV, hdV, hrV, hfW, hdW, hrW, Smoother.retarget_congr h.freq, Smoother.retarget_congr h.det]
    exact ⟨rfl, rfl, h.rate⟩
  | noise =>
    obtain ⟨hrV, hfV, hdV⟩ := hnV hc
    obtain ⟨hrW, hfW, hdW⟩ := hnW hc
    rw [hfV, hdV, hrV, hfW, hdW, hrW, Smoother.retarget_congr h.rate]
    exact ⟨h.freq, h.det, rfl⟩

theorem SettledAlike.seen_applyVoice (h : SettledAlike (settledVoice p V) (settledVoice p W)) :
    (applyVoice cfg p V).seen = (applyVoice cfg p W).seen := by
  obtain ⟨hpV, hcV, hwV, henV, heV, haV, hvV, hphV, hpanV, hlV, -, -⟩ := applyVoice_fields cfg p V
  obtain ⟨hpW, hcW, hwW, henW, heW, haW, hvW, hphW, hpanW, hlW, -, -⟩ := applyVoice_fields cfg p W
  obtain ⟨hlfoV, hwfV⟩ := applyVoice_lforate cfg p V
  obtain ⟨hlfoW, hwfW⟩ := applyVoice_lforate cfg p W
  obtain ⟨hroute, hamt⟩ := Proofs.applyVoice_route_congr cfg p V W
  obtain ⟨hfreq, hdet, hrate⟩ := h.applyVoice_pitch (cfg := cfg)
  have hlvl : (applyVoice cfg p V).lvl = (applyVoice cfg p W).lvl := by
    rw [hlV, hlW, h.en, Smoother.retarget_congr h.lvl]
  have hpan : (applyVoice cfg p V).pan = (applyVoice cfg p W).pan := by
    rw [hpanV, hpanW, Smoother.retarget_congr h.pan]
  have hlforate : (applyVoice cfg p V).lforate = (applyVoice cfg p W).lforate := by
    rw [hlfoV, hlfoW, Smoother.retarget_congr h.lforate]
  rw [Voice.seen_of_present (applyVoice_present cfg p V), Voice.seen_of_present (applyVoice_present cfg p W)]
  exact Voice.ext_fields ((applyVoice_present cfg p V).trans (applyVoice_present cfg p W).symm) (hcV.trans hcW.symm)
    (hwV.trans hwW.symm) (henV.trans henW.symm) ((heV.trans h.epoch).trans heW.symm) hfreq hdet hrate
    (congrArg Smoother.seen hlvl) (congrArg Smoother.seen hpan) (congrArg Smoother.seen hlforate)
    (haV.trans haW.symm) ((hvV.trans h.env).trans hvW.symm) (hwfV.trans hwfW.symm)
    ((hphV.trans h.lfoPh).trans hphW.symm) hroute hamt

end

theorem applyVoice_seen (cfg : Config) (p : VoicePatch) (V : Voice) :
    (applyVoice cfg p V.seen).seen = (applyVoice cfg p V).seen :=
  (settledVoice_seen p V).seen_applyVoice

/-! ### A voice in a tick -/

/-- A tick reads the rate of an existing voice only (42_modulation_router.md R146). -/
theorem advanceVoice_seen (cfg : Config) {V : Voice} (h : V.present = true → V.lforate.valid = true) :
    advanceVoice cfg V.seen = (advanceVoice cfg V).seen := by
  cases hp : V.present with
  | false => rw [advanceVoice_absent cfg hp, advanceVoice_absent cfg (V.seen_present.trans hp)]
  | true =>
    have hrate : V.lforate.seen = V.lforate := Smoother.seen_of_valid (h hp)
    have hadvance : (advance V.lforate).seen = advance V.lforate := by rw [← Smoother.advance_seen, hrate]
    rw [Voice.seen_of_present ((advanceVoice_present cfg V).trans hp), Voice.seen_of_present hp, advanceVoice,
      advanceVoice, if_pos hp, if_pos hp]
    simp only [nextPhase, hrate, hadvance, Smoother.advance_seen]

section

variable {t : Nat} {V : Voice} (h : VoiceOk t V) (hp : V.present = true) (cfg : Config)

include h hp

/-- The source controls read the pitch smoothers of the voice's category, which are loaded (10_state.md R36,
41_voice_manager.md R133, R134). -/
theorem VoiceOk.srcControl_seen : srcControl cfg V.seen = srcControl cfg V := by
  have hpSeen : V.seen.present = true := V.seen_present.trans hp
  have hcSeen : V.seen.cat = V.cat := Voice.seen_cat hp
  cases hc : V.cat with
  | tonal =>
    obtain ⟨hfreq, hdet, -⟩ := (pitchOk_tonal hc).1 h.pitch
    rw [Proofs.srcControl_tonal cfg hp hc, Proofs.srcControl_tonal cfg hpSeen (hcSeen.trans hc), h.seen_eq hp,
      hfreq.seen_eq, hdet.seen_eq]
    rfl
  | noise =>
    obtain ⟨hrate, -, -⟩ := (pitchOk_noise hc).1 h.pitch
    rw [Proofs.srcControl_noise cfg hp hc, Proofs.srcControl_noise cfg hpSeen (hcSeen.trans hc), h.seen_eq hp,
      hrate.seen_eq]
    rfl

/-- Level, pan, envelope and LFO of an existing voice are all there (41_voice_manager.md R135, R136). -/
theorem VoiceOk.voiceSample_seen (n : Nat) (x : Rat) (c : Chan) :
    voiceSample cfg n V.seen x c = voiceSample cfg n V x c := by
  rw [h.seen_eq hp]
  rfl

theorem VoiceOk.modTerm_seen (r : Route) : modTerm cfg V.seen r = modTerm cfg V r := by
  rw [h.seen_eq hp]
  rfl

end

/-- A sum over the existing voices whose summands do not read what is blanked out. -/
theorem sumVoices_seen {vs : Triple Voice} {f : VoiceId → Voice → Rat}
    (h : ∀ v, (vs.get v).present = true → f v (vs.get v).seen = f v (vs.get v)) :
    sumVoices (.each fun v => (vs.get v).seen) f = sumVoices vs f := by
  have hsummand (v : VoiceId) : (if (vs.get v).seen.present then f v (vs.get v).seen else 0) =
      if (vs.get v).present then f v (vs.get v) else 0 := by
    rw [Voice.seen_present]
    exact ite_congr rfl (h v) fun _ => rfl
  exact congrArg₂ (· + ·) (congrArg₂ (· + ·) (hsummand .v0) (hsummand .v1)) (hsummand .v2)

/-! ### The effects record -/

@[simp] theorem Effects.seen_seen (fx : Effects) : fx.seen.seen = fx.seen := by
  simp only [Effects.seen, Smoother.seen_seen]
  split <;> rfl

/-- Once an APPLY has acted, every field of the record is read (10_state.md R39). -/
theorem EffectsOk.seen_eq {fx : Effects} (h : EffectsOk fx) (hx : fx.fxv = true) : fx.seen = fx := by
  rw [Effects.seen, h.fc.seen_eq, h.fq.seen_eq, h.dtime.seen_eq, h.dfb.seen_eq, h.dmix.seen_eq, h.rmix.seen_eq,
    h.mgain.seen_eq, if_pos hx]

/-- APPLY writes the filter type and retargets every smoother (44_effects_bus.md R175 to R179). -/
theorem applyEffects_seen (cfg : Config) (p : Patch) (fx : Effects) :
    applyEffects cfg p fx.seen = applyEffects cfg p fx := by
  simp only [applyEffects, Effects.seen, Smoother.retarget_seen]

/-! ### Ticks that find other voices of the same sound -/

/-- Voices in whose place a tick computes the same sums (42_modulation_router.md R149, 41_voice_manager.md R137). -/
structure SoundAlike (cfg : Config) (src : Triple Rat) (s : State) (vs : Triple Voice) : Prop where
  fin : finSig cfg src { s with voices := vs } = finSig cfg src s
  cutoff : cutoffMod cfg vs = cutoffMod cfg s.voices

namespace SoundAlike

variable {cfg : Config} {src : Triple Rat} {s : State} {vs : Triple Voice} (h : SoundAlike cfg src s vs)

include h

theorem foutSig_eq : foutSig cfg src { s with voices := vs } = foutSig cfg src s := by
  funext c
  simp only [foutSig, filterCoefs, cutoffEff, h.fin, h.cutoff]

theorem filterNext_eq : filterNext cfg src { s with voices := vs } = filterNext cfg src s := by
  funext c
  simp only [filterNext, h.fin, h.foutSig_eq]

theorem delayNext_eq : delayNext cfg src { s with voices := vs } = delayNext cfg src s := by
  funext c
  simp only [delayNext, dinSig, h.foutSig_eq]
  rfl

theorem historyNext_eq : historyNext cfg src { s with voices := vs } = historyNext cfg src s := by
  funext c
  simp only [historyNext, h.foutSig_eq]

theorem mgSig_eq : mgSig cfg src { s with voices := vs } = mgSig cfg src s := by
  funext c
  simp only [mgSig, wsSig, drvSig, routSig, h.foutSig_eq, h.historyNext_eq]
  rfl

theorem limNext_eq : limNext cfg src { s with voices := vs } = limNext cfg src s := by
  simp only [limNext, h.mgSig_eq]

theorem outSig_eq : outSig cfg src { s with voices := vs } = outSig cfg src s := by
  funext c
  simp only [outSig, h.mgSig_eq, h.limNext_eq]

/-- Past the two sums a tick uses the voices for the source ports and to move them on (40_commands.md R111). -/
theorem tickActive_eq (hsrc : ∀ v, srcControl cfg (vs.get v) = srcControl cfg (s.voices.get v)) :
    tickActive cfg src { s with voices := vs } =
      { tickActive cfg src s with voices := .each fun v => advanceVoice cfg (vs.get v) } := by
  simp only [tickActive, h.filterNext_eq, h.delayNext_eq, h.historyNext_eq, h.limNext_eq, h.outSig_eq, hsrc]

end SoundAlike

end Sys2Proof.Machine
end

section
/-!
State that no rule reads (70_reset_and_hazards.md R251). A step from a state and one from the same state with its unread
fields blanked out lead to states that show the same, so two states that show the same step alike: both are compared
with the one blanked state. Every operation but APPLY even commutes with the blanking; only the tick needs the invariant
of the block, which says that the smoothers it reads are loaded.
-/

namespace Sys2Proof.Machine

/-! ### The blanked state -/

namespace State

variable (s : State)

@[simp] theorem seen_voice (v : VoiceId) : s.seen.voices.get v = (s.voices.get v).seen := Triple.get_each _ v

@[simp] theorem seen_seen : s.seen.seen = s.seen := by
  have hvoices : (Triple.each fun v => (s.seen.voices.get v).seen) = s.seen.voices :=
    Triple.ext_get fun v => by rw [Triple.get_each, seen_voice, Voice.seen_seen]
  have hfx : s.seen.fx.seen = s.seen.fx := Effects.seen_seen s.fx
  rw [seen.eq_def s.seen, hvoices, hfx]

variable {s}

theorem seen_setVoice (v : VoiceId) (V : Voice) :
    { s with voices := s.voices.set v V }.seen = { s.seen with voices := s.seen.voices.set v V.seen } := by
  have hvoices : (Triple.each fun w => ((s.voices.set v V).get w).seen) = s.seen.voices.set v V.seen :=
    Triple.ext_get fun w => by
      by_cases hw : w = v
      · rw [hw, Triple.get_each, Triple.get_set_same, Triple.get_set_same]
      · rw [Triple.get_each, Triple.get_set_ne _ _ hw, Triple.get_set_ne _ _ hw, seen_voice]
  rw [seen, hvoices]
  rfl

/-- An operation that commutes with `seen` gives states that show the same. -/
theorem seen_of_commutes {f : State → State} (h : f s.seen = (f s).seen) : (f s.seen).seen = (f s).seen := by
  rw [h, seen_seen]

end State

/-! ### Status registers -/

/-- The envelope of a voice that does not exist is not shown (10_state.md R31). -/
theorem voiceEnvState_seen (V : Voice) (t : Nat) : voiceEnvState V.seen t = voiceEnvState V t := by
  cases hp : V.present with
  | false => rw [voiceEnvState, voiceEnvState, V.seen_present, hp]; rfl
  | true => rw [Voice.seen_of_present hp]; rfl

/-- The status registers show nothing that is blanked out (10_state.md R30 to R34). -/
theorem statusRead_seen (s : State) (r : StatusReg) : statusRead s.seen r = statusRead s r := by
  cases r with
  | status =>
    simp only [statusRead, statusWord, State.seen, Triple.each, Voice.seen_present]
    rfl
  | envstate =>
    simp only [statusRead, envStateWord, State.seen_voice, voiceEnvState_seen]
    rfl
  | route => simp only [statusRead, routeWord, State.seen_voice, Voice.seen_route]
  | epoch0 | epoch1 | epoch2 => simp only [statusRead, epochWord, State.seen_voice, Voice.seen_epoch]
  | tick0 | tick1 | tick2 | tick3 => rfl

/-! ### Commands -/

section

variable {s : State}

theorem whenStarted_seen {f : State → State} (h : (f s.seen).seen = (f s).seen) :
    (whenStarted f s.seen).seen = (whenStarted f s).seen := by
  by_cases hr : s.run = .uninit
  · rw [whenStarted_uninit f hr, whenStarted_uninit f (s := s.seen) hr]
    exact State.seen_of_commutes (f := respond .ok 0) rfl
  · rw [whenStarted_started f hr, whenStarted_started f (s := s.seen) hr]
    exact h

theorem stopEngine_seen (s : State) : stopEngine s.seen = (stopEngine s).seen := by
  by_cases hr : s.run = .running
  · rw [stopEngine_running hr, stopEngine_running (s := s.seen) hr]; rfl
  · rw [stopEngine_stopped hr, stopEngine_stopped (s := s.seen) hr]

theorem beginCapture_seen (s : State) : beginCapture s.seen = (beginCapture s).seen := by
  cases hc : s.cap with
  | idle => rw [beginCapture_idle hc, beginCapture_idle (s := s.seen) hc]; rfl
  | recording => rw [beginCapture_recording hc, beginCapture_recording (s := s.seen) hc]; rfl

/-- A trigger reads the schedule and the latched times of an existing voice only (43_envelope.md R157). -/
theorem trigger_seen (f : Adsr → Envelope → Nat → Envelope) (v : VoiceId) (s : State) :
    trigger f v s.seen = (trigger f v s).seen := by
  have hpSeen : (s.seen.voices.get v).present = (s.voices.get v).present := by
    rw [State.seen_voice, Voice.seen_present]
  cases hp : (s.voices.get v).present with
  | false => rw [trigger_absent hp, trigger_absent (hpSeen.trans hp)]; rfl
  | true =>
    have hvoice (V : Voice) (h : V.present = true) :
        { V.seen with env := f V.seen.adsr V.seen.env s.t } = { V with env := f V.adsr V.env s.t }.seen := by
      rw [Voice.seen_of_present h, Voice.seen_of_present (V := { V with env := f V.adsr V.env s.t }) h]
    rw [trigger_present hp, trigger_present (hpSeen.trans hp), State.seen_voice]
    exact congrArg (respond .ok 0)
      ((congrArg (fun V => { s.seen with voices := s.seen.voices.set v V }) (hvoice _ hp)).trans
        (State.seen_setVoice v _).symm)

/-- APPLY carries nothing over that is blanked out (41_voice_manager.md R120). -/
theorem reconcile_seen (cfg : Config) (s : State) : (reconcile cfg s.seen).seen = (reconcile cfg s).seen := by
  have hvoices (v : VoiceId) : ((applyVoices cfg s.seen).get v).seen = ((applyVoices cfg s).get v).seen := by
    rw [applyVoices, applyVoices, Triple.get_each, Triple.get_each, State.seen_voice]
    exact applyVoice_seen cfg _ _
  have hfx : applyEffects cfg s.seen.patch s.seen.fx = applyEffects cfg s.patch s.fx :=
    applyEffects_seen cfg s.patch s.fx
  rcases reconcile_cases cfg s with ⟨hkept, e⟩ | ⟨hdue, e⟩
  · obtain ⟨-, e'⟩ := (reconcile_cases cfg s.seen).resolve_right fun ⟨hdue, _⟩ => hdue hkept
    rw [e, e', hfx, State.seen, State.seen.eq_def (respond .ok 0 _)]
    simp only [respond, hvoices]
    rfl
  · obtain ⟨-, e'⟩ := (reconcile_cases cfg s.seen).resolve_left fun ⟨hkept, _⟩ => hdue hkept
    rw [e, e', hfx, State.seen, State.seen.eq_def (respond .ok 0 _)]
    simp only [respond, hvoices]
    rfl

theorem execWrp_seen {r : PatchReg} {x : Half} {t u : State} (ht : execWrp r x s = .next t)
    (hu : execWrp r x s.seen = .next u) : u.seen = t.seen := by
  cases hx : immLegal r x with
  | true =>
    cases (Proofs.execWrp_legal hx s).symm.trans ht
    cases (Proofs.execWrp_legal hx s.seen).symm.trans hu
    exact State.seen_of_commutes (f := fun s => respond .ok 0 { s with patch := s.patch.write r x }) rfl
  | false =>
    cases (Proofs.execWrp_illegal hx s).symm.trans ht
    cases (Proofs.execWrp_illegal hx s.seen).symm.trans hu
    exact State.seen_of_commutes (f := raiseError .illegal) rfl

theorem execCapstop_seen {t u : State} (ht : execCapstop s = .next t) (hu : execCapstop s.seen = .next u) :
    u.seen = t.seen := by
  cases hc : s.cap with
  | idle =>
    cases (Proofs.execCapstop_idle hc).symm.trans ht
    cases (Proofs.execCapstop_idle (s := s.seen) hc).symm.trans hu
    exact State.seen_of_commutes (f := raiseError .capture) rfl
  | recording =>
    cases (Proofs.execCapstop_recording hc).symm.trans ht
    cases (Proofs.execCapstop_recording (s := s.seen) hc).symm.trans hu
    exact State.seen_of_commutes (f := endCapture) rfl

/-- No instruction reads what is blanked out. -/
theorem exec_seen {i : Instr} {t u : State} (ht : exec i s = .next t) (hu : exec i s.seen = .next u) :
    u.seen = t.seen := by
  cases i with
  | wrp r x => exact execWrp_seen ht hu
  | capstop => exact execCapstop_seen ht hu
  | nop => cases ht; cases hu; exact State.seen_of_commutes (f := respond .ok 0) rfl
  | rdp r => cases ht; cases hu; exact State.seen_of_commutes (f := respond .ok (s.patch.read r)) rfl
  | rds r =>
    cases ht
    cases hu
    rw [statusRead_seen]
    exact State.seen_of_commutes (f := respond .ok (statusRead s r)) rfl
  | apply => cases ht; cases hu; exact whenStarted_seen (reconcile_seen _ s)
  | attack v | release v =>
    cases ht
    cases hu
    exact whenStarted_seen (State.seen_of_commutes (trigger_seen _ v s))
  | capstart => cases ht; cases hu; exact whenStarted_seen (State.seen_of_commutes (beginCapture_seen s))
  | start =>
    cases ht
    cases hu
    rw [startEngine_eq, startEngine_eq]
    exact State.seen_of_commutes (f := fun s => respond .ok 0 { s with run := .running }) rfl
  | stop =>
    cases ht
    cases hu
    exact State.seen_of_commutes (f := fun s => respond .ok 0 (stopEngine s))
      (congrArg (respond .ok 0) (stopEngine_seen s))

theorem execWord_seen {w : Word} {t u : State} (ht : execWord w s = .next t) (hu : execWord w s.seen = .next u) :
    u.seen = t.seen := by
  cases hd : decode w with
  | ok i => exact exec_seen ((execWord_ok hd s).symm.trans ht) ((execWord_ok hd s.seen).symm.trans hu)
  | error x =>
    cases (execWord_error hd s).symm.trans ht
    cases (execWord_error hd s.seen).symm.trans hu
    exact State.seen_of_commutes (f := raiseError .illegal) rfl

theorem controlStep_seen {t u : State} (ht : controlStep s = .next t) (hu : controlStep s.seen = .next u) :
    u.seen = t.seen := by
  cases hq : s.cq with
  | nil =>
    cases (controlStep_nil hq).symm.trans ht
    cases (controlStep_nil (s := s.seen) hq).symm.trans hu
    exact s.seen_seen
  | cons w ws =>
    exact execWord_seen ((controlStep_cons hq).symm.trans ht) ((controlStep_cons (s := s.seen) hq).symm.trans hu)

end

/-! ### Ticks and steps -/

namespace BlockInv

variable {s : State}

section

variable (h : BlockInv s) (hx : s.fx.fxv = true)

include h hx

theorem soundAlike_seen (cfg : Config) (src : Triple Rat) : SoundAlike cfg src s s.seen.voices where
  fin := funext fun c => sumVoices_seen fun v hp => (h.voice v hx).voiceSample_seen hp cfg s.t (src.get v) c
  cutoff := sumVoices_seen fun v hp => (h.voice v hx).modTerm_seen hp cfg .cutoff

/-- Once an APPLY has acted, a tick reads nothing that is blanked out (70_reset_and_hazards.md R251). -/
theorem tickActive_seen (cfg : Config) (src : Triple Rat) :
    Machine.tickActive cfg src s.seen = (Machine.tickActive cfg src s).seen := by
  have hfx : s.fx.seen = s.fx := (h.effects hx).seen_eq hx
  have hfxNext : (advanceEffects s.fx).seen = advanceEffects s.fx := (advanceEffects_ok (h.effects hx)).seen_eq hx
  have hseen : s.seen = { s with voices := s.seen.voices } := by rw [State.seen, hfx]
  have hsrc (v : VoiceId) : srcControl cfg (s.seen.voices.get v) = srcControl cfg (s.voices.get v) := by
    rw [State.seen_voice]
    exact (h.voice v hx).srcControl_seen ((h.present v).trans hx) cfg
  have hvoices : (Triple.each fun v => advanceVoice cfg (s.seen.voices.get v)) =
      (Machine.tickActive cfg src s).seen.voices := Triple.ext_get fun v => by
    rw [State.seen_voice, tickActive_voices, Triple.get_each, Triple.get_each, State.seen_voice]
    exact advanceVoice_seen cfg fun _ => (h.voice v hx).lforate.loaded
  rw [hseen, (h.soundAlike_seen hx cfg src).tickActive_eq hsrc, hvoices, State.seen, tickActive_fx, hfxNext]
  rfl

end

/-- No tick reads what is blanked out: before any APPLY has acted it reads no voice and no effect (40_commands.md
R112). -/
theorem tickEvent_seen (h : BlockInv s) (cfg : Config) (src : Triple Rat) :
    Machine.tickEvent cfg src s.seen = (Machine.tickEvent cfg src s).seen := by
  by_cases hr : s.run = .running
  · cases hx : s.fx.fxv with
    | false => rw [tickEvent_silent cfg src hr hx, tickEvent_silent cfg src (s := s.seen) hr hx]; rfl
    | true =>
      rw [tickEvent_active cfg src hr hx, tickEvent_active cfg src (s := s.seen) hr hx]
      exact h.tickActive_seen hx cfg src
  · rw [tickEvent_stopped cfg src hr, tickEvent_stopped cfg src (s := s.seen) hr]; rfl

theorem runEvent_seen (h : BlockInv s) {e : HostEvent} {t u : State} (ht : Machine.runEvent e s = .next t)
    (hu : Machine.runEvent e s.seen = .next u) : u.seen = t.seen := by
  cases e with
  | command => exact controlStep_seen ht hu
  | push w =>
    cases ht; cases hu
    exact State.seen_of_commutes (f := fun s => { s with cq := s.cq ++ [w] }) rfl
  | take =>
    cases ht; cases hu
    exact State.seen_of_commutes (f := fun s => { s with rq := s.rq.tail }) rfl
  | tick src => cases ht; cases hu; exact State.seen_of_commutes (h.tickEvent_seen _ src)
  | rst => cases ht; cases hu; rfl

/-- Noninterference, unary: a step from the state with the unread fields blanked out shows the same. -/
theorem step_seen (h : BlockInv s) {t u : State} (ht : Machine.step s = .next t) (hu : Machine.step s.seen = .next u) :
    u.seen = t.seen := by
  cases hp : s.pending with
  | nil => exact controlStep_seen ((step_nil hp).symm.trans ht) ((step_nil (s := s.seen) hp).symm.trans hu)
  | cons e es =>
    exact (h.with_outside _ _ _ _ _ es _).runEvent_seen ((step_cons hp).symm.trans ht)
      ((step_cons (s := s.seen) hp).symm.trans hu)

end BlockInv

end Sys2Proof.Machine

namespace Sys2Proof.Proofs

open Sys2Proof.Machine

/-- Settles O56: two states that show the same have one blanked state, and the step from it shows what theirs show. -/
theorem unreadStateIsUnread : Obligations.UnreadStateIsUnread := by
  intro s u t w hs hu h ht hw
  obtain ⟨r, hr⟩ := step_next s.seen
  have hleft : r.seen = t.seen := hs.step_seen ht hr
  have hright : r.seen = w.seen := hu.step_seen hw (h ▸ hr)
  exact hleft.symm.trans hright

end Sys2Proof.Proofs
end
